-- ==== Sys2Proof/Word.lean ====
section
/-!
DEFINITION. The word types of the core (00_scope.md rules R5, R8) and the names of its operands, the entries of the
decoding tables of 30_encoding.md rule R57. Their codes are in Decode.lean, their reads and writes in
Machine/Operands.lean.
-/

namespace Sys2Proof

/-- An 8-bit value: a register, a memory byte, an instruction byte (R5). -/
abbrev Byte := BitVec 8

/-- A 16-bit value: an address, a register pair, a port number (R5, R36, R44). -/
abbrev Word := BitVec 16

/-- `r8[k]`, k ≠ 6: the seven 8-bit registers an opcode field selects (R57). -/
inductive Reg8 where
  | b | c | d | e | h | l | a
  deriving DecidableEq, Repr

/-- `r8[k]`, k = 0..7: a register, or entry 6, the memory operand `(HL)` (R57). -/
inductive Opnd8 where
  | reg (r : Reg8)
  | hlMem
  deriving DecidableEq, Repr

/-- `rp[k]` (R57). -/
inductive Rp where
  | bc | de | hl | sp
  deriving DecidableEq, Repr

/-- `rp2[k]`, the pairs of `PUSH` and `POP` (R57). -/
inductive Rp2 where
  | bc | de | hl | af
  deriving DecidableEq, Repr

/-- `rp'[k]`, the pairs of `ADD idx,rp'` (41_arith_logic.md rule R140). -/
inductive RpIdx where
  | bc | de | idx | sp
  deriving DecidableEq, Repr

/-- The pointer pair of `LD A,(rp)` and `LD (rp),A` (40_load_exchange.md rules R82, R83). -/
inductive BcDe where
  | bc | de
  deriving DecidableEq, Repr

/-- `cc[k]`, the eight conditions (10_state.md rule R24). -/
inductive Cond where
  | nz | z | nc | c | po | pe | p | m
  deriving DecidableEq, Repr

/-- The four conditions of `JR cc` (10_state.md rule R24). -/
inductive JrCond where
  | nz | z | nc | c
  deriving DecidableEq, Repr

/-- The index register a `DD` or `FD` prefix byte selects (30_encoding.md rule R62). -/
inductive Idx where
  | ix | iy
  deriving DecidableEq, Repr

/-- A half of the index register: `idxH` or `idxL` (10_state.md rule R18). -/
inductive Half where
  | hi | lo
  deriving DecidableEq, Repr

/-- `r8x[k]`: the operands of the loads with index halves (40_load_exchange.md rule R86). -/
inductive RegX where
  | b | c | d | e | idxH | idxL | a
  deriving DecidableEq, Repr

/-- `k ∈ {4, 5}`: the operand is a half of the index register (R86). -/
def RegX.isHalf : RegX → Bool
  | .idxH | .idxL => true
  | .b | .c | .d | .e | .a => false

end Sys2Proof
end

