-- ==== Sys2Proof/Syntax.lean ====
section
/-!
DEFINITION. The instructions: one constructor per row of spec/opcode_table.json, in the table's order. `nn` is an
immediate word or an absolute address, `n` an immediate byte, `d` and `e` signed displacements, `y` and `b` bit-field
values 0..7 (30_encoding.md rules R56, R58). A constructor ending in `Dup`, `Ed` or `Copy`, or with a `Half` or `RegX`
operand, is an undocumented encoding (rule R67).
-/

namespace Sys2Proof

/-- An instruction: a row of the opcode table with its operand fields (30_encoding.md rule R73). -/
inductive Instr where
  -- The base map (R59).
  /-- `NOP`, R199. -/
  | nop
  /-- `EX AF,AF'`, R103. -/
  | exAfAf
  /-- `DJNZ e`, R172. -/
  | djnz (e : Byte)
  /-- `JR e`, R170. -/
  | jr (e : Byte)
  /-- `JR cc[y-4],e`, R171. -/
  | jrCc (cc : JrCond) (e : Byte)
  /-- `LD rp[p],nn`, R88. -/
  | ldRpNn (p : Rp) (nn : Word)
  /-- `ADD HL,rp[p]`, R139. -/
  | addHlRp (p : Rp)
  /-- `LD (rp[p]),A`, R83. -/
  | ldRpMemA (p : BcDe)
  /-- `LD (nn),HL`, R93. -/
  | ldNnMemHl (nn : Word)
  /-- `LD (nn),A`, R85. -/
  | ldNnMemA (nn : Word)
  /-- `LD A,(rp[p])`, R82. -/
  | ldARpMem (p : BcDe)
  /-- `LD HL,(nn)`, R90. -/
  | ldHlNnMem (nn : Word)
  /-- `LD A,(nn)`, R84. -/
  | ldANnMem (nn : Word)
  /-- `INC rp[p]`, R143. -/
  | incRp (p : Rp)
  /-- `DEC rp[p]`, R144. -/
  | decRp (p : Rp)
  /-- `INC r8[y]`, R132. -/
  | incR8 (o : Opnd8)
  /-- `DEC r8[y]`, R133. -/
  | decR8 (o : Opnd8)
  /-- `LD r8[y],n`, R75. -/
  | ldRN (r : Reg8) (n : Byte)
  /-- `LD (HL),n`, R80. -/
  | ldHlMemN (n : Byte)
  /-- `RLCA`, R150. -/
  | rlca
  /-- `RRCA`, R151. -/
  | rrca
  /-- `RLA`, R152. -/
  | rla
  /-- `RRA`, R153. -/
  | rra
  /-- `DAA`, R134. -/
  | daa
  /-- `CPL`, R135. -/
  | cpl
  /-- `SCF`, R137. -/
  | scf
  /-- `CCF`, R138. -/
  | ccf
  /-- `LD r8[y],r8[z]`, R74. -/
  | ldRR (y : Reg8) (z : Reg8)
  /-- `LD r8[y],(HL)`, R76. -/
  | ldRHlMem (y : Reg8)
  /-- `LD (HL),r8[z]`, R78. -/
  | ldHlMemR (z : Reg8)
  /-- `HALT`, R200. -/
  | halt
  /-- `ADD A,r8[z]`, R124. -/
  | addAR8 (o : Opnd8)
  /-- `ADC A,r8[z]`, R125. -/
  | adcAR8 (o : Opnd8)
  /-- `SUB r8[z]`, R126. -/
  | subR8 (o : Opnd8)
  /-- `SBC A,r8[z]`, R127. -/
  | sbcAR8 (o : Opnd8)
  /-- `AND r8[z]`, R128. -/
  | andR8 (o : Opnd8)
  /-- `XOR r8[z]`, R129. -/
  | xorR8 (o : Opnd8)
  /-- `OR r8[z]`, R130. -/
  | orR8 (o : Opnd8)
  /-- `CP r8[z]`, R131. -/
  | cpR8 (o : Opnd8)
  /-- `RET cc[y]`, R178. -/
  | retCc (cc : Cond)
  /-- `POP rp2[p]`, R100. -/
  | popRp2 (p : Rp2)
  /-- `RET`, R177. -/
  | ret
  /-- `EXX`, R104. -/
  | exx
  /-- `JP (HL)`, R173. -/
  | jpHl
  /-- `LD SP,HL`, R96. -/
  | ldSpHl
  /-- `JP cc[y],nn`, R169. -/
  | jpCcNn (cc : Cond) (nn : Word)
  /-- `JP nn`, R168. -/
  | jpNn (nn : Word)
  /-- `OUT (n),A`, R188. -/
  | outNA (n : Byte)
  /-- `IN A,(n)`, R185. -/
  | inAN (n : Byte)
  /-- `EX (SP),HL`, R105. -/
  | exSpHl
  /-- `EX DE,HL`, R102. -/
  | exDeHl
  /-- `DI`, R201. -/
  | di
  /-- `EI`, R202. -/
  | ei
  /-- `CALL cc[y],nn`, R176. -/
  | callCcNn (cc : Cond) (nn : Word)
  /-- `PUSH rp2[p]`, R98. -/
  | pushRp2 (p : Rp2)
  /-- `CALL nn`, R175. -/
  | callNn (nn : Word)
  /-- `ADD A,n`, R124. -/
  | addAN (n : Byte)
  /-- `ADC A,n`, R125. -/
  | adcAN (n : Byte)
  /-- `SUB n`, R126. -/
  | subN (n : Byte)
  /-- `SBC A,n`, R127. -/
  | sbcAN (n : Byte)
  /-- `AND n`, R128. -/
  | andN (n : Byte)
  /-- `XOR n`, R129. -/
  | xorN (n : Byte)
  /-- `OR n`, R130. -/
  | orN (n : Byte)
  /-- `CP n`, R131. -/
  | cpN (n : Byte)
  /-- `RST y*8`, R181. -/
  | rst (y : Fin 8)
  -- The `CB` map (R60).
  /-- `RLC r8[z]`, R155. -/
  | rlcR8 (o : Opnd8)
  /-- `RRC r8[z]`, R156. -/
  | rrcR8 (o : Opnd8)
  /-- `RL r8[z]`, R157. -/
  | rlR8 (o : Opnd8)
  /-- `RR r8[z]`, R158. -/
  | rrR8 (o : Opnd8)
  /-- `SLA r8[z]`, R159. -/
  | slaR8 (o : Opnd8)
  /-- `SRA r8[z]`, R160. -/
  | sraR8 (o : Opnd8)
  /-- `SLL r8[z]`, R161. -/
  | sllR8 (o : Opnd8)
  /-- `SRL r8[z]`, R162. -/
  | srlR8 (o : Opnd8)
  /-- `BIT y,r8[z]`, R163. -/
  | bitR8 (b : Fin 8) (o : Opnd8)
  /-- `RES y,r8[z]`, R164. -/
  | resR8 (b : Fin 8) (o : Opnd8)
  /-- `SET y,r8[z]`, R165. -/
  | setR8 (b : Fin 8) (o : Opnd8)
  -- The `ED` map (R61, R66).
  /-- `IN r8[y],(C)`, R186. -/
  | inRC (y : Reg8)
  /-- `IN F,(C)`, R187. -/
  | inFC
  /-- `OUT (C),r8[y]`, R189. -/
  | outCR (y : Reg8)
  /-- `OUT (C),0`, R190. -/
  | outC0
  /-- `SBC HL,rp[p]`, R142. -/
  | sbcHlRp (p : Rp)
  /-- `ADC HL,rp[p]`, R141. -/
  | adcHlRp (p : Rp)
  /-- `LD (nn),rp[p]`, R94. -/
  | ldNnMemRp (p : Rp) (nn : Word)
  /-- `LD (nn),HL`, R93. -/
  | ldNnMemHlEd (nn : Word)
  /-- `LD rp[p],(nn)`, R91. -/
  | ldRpNnMem (p : Rp) (nn : Word)
  /-- `LD HL,(nn)`, R90. -/
  | ldHlNnMemEd (nn : Word)
  /-- `NEG`, R136. -/
  | neg
  /-- `NEG`, R136. -/
  | negDup (y : Fin 8)
  /-- `RETN`, R179. -/
  | retn
  /-- `RETI`, R180. -/
  | reti
  /-- `RETN`, R179. -/
  | retnDup (y : Fin 8)
  /-- `IM 0`, R203. -/
  | im0
  /-- `IM 1`, R203. -/
  | im1
  /-- `IM 2`, R203. -/
  | im2
  /-- `IM 0`, R203. -/
  | im0Dup
  /-- `IM 1`, R203. -/
  | im1Dup
  /-- `IM 2`, R203. -/
  | im2Dup
  /-- `IM 0/1 (mode is a draw from {0,1})`, R203. -/
  | im01 (q : Bool)
  /-- `LD I,A`, R206. -/
  | ldIA
  /-- `LD R,A`, R207. -/
  | ldRA
  /-- `LD A,I`, R204. -/
  | ldAI
  /-- `LD A,R`, R205. -/
  | ldAR
  /-- `RRD`, R167. -/
  | rrd
  /-- `RLD`, R166. -/
  | rld
  /-- `LDI`, R108. -/
  | ldi
  /-- `CPI`, R146. -/
  | cpi
  /-- `INI`, R191. -/
  | ini
  /-- `OUTI`, R195. -/
  | outi
  /-- `LDD`, R109. -/
  | ldd
  /-- `CPD`, R147. -/
  | cpd
  /-- `IND`, R192. -/
  | ind
  /-- `OUTD`, R196. -/
  | outd
  /-- `LDIR`, R110. -/
  | ldir
  /-- `CPIR`, R148. -/
  | cpir
  /-- `INIR`, R193. -/
  | inir
  /-- `OTIR`, R197. -/
  | otir
  /-- `LDDR`, R111. -/
  | lddr
  /-- `CPDR`, R149. -/
  | cpdr
  /-- `INDR`, R194. -/
  | indr
  /-- `OTDR`, R198. -/
  | otdr
  /-- `(undefined ED entry: two-byte no-op)`, R66. -/
  | edUndefined (op : Byte)
  -- The `DD` and `FD` maps (R63).
  /-- `ADD idx,rp'[p]`, R140. -/
  | addIdxRp (i : Idx) (p : RpIdx)
  /-- `LD idx,nn`, R89. -/
  | ldIdxNn (i : Idx) (nn : Word)
  /-- `LD (nn),idx`, R95. -/
  | ldNnMemIdx (i : Idx) (nn : Word)
  /-- `LD idx,(nn)`, R92. -/
  | ldIdxNnMem (i : Idx) (nn : Word)
  /-- `INC idx`, R143. -/
  | incIdx (i : Idx)
  /-- `DEC idx`, R144. -/
  | decIdx (i : Idx)
  /-- `INC idxH / INC idxL`, R132. -/
  | incHalf (i : Idx) (h : Half)
  /-- `DEC idxH / DEC idxL`, R133. -/
  | decHalf (i : Idx) (h : Half)
  /-- `LD idxH,n / LD idxL,n`, R87. -/
  | ldHalfN (i : Idx) (h : Half) (n : Byte)
  /-- `INC (idx+d)`, R132. -/
  | incIdxMem (i : Idx) (d : Byte)
  /-- `DEC (idx+d)`, R133. -/
  | decIdxMem (i : Idx) (d : Byte)
  /-- `LD (idx+d),n`, R81. -/
  | ldIdxMemN (i : Idx) (d : Byte) (n : Byte)
  /-- `LD r8[y],(idx+d)`, R77. -/
  | ldRIdxMem (y : Reg8) (i : Idx) (d : Byte)
  /-- `LD (idx+d),r8[z]`, R79. -/
  | ldIdxMemR (i : Idx) (d : Byte) (z : Reg8)
  /-- `LD r8x[y],r8x[z]`, R86. -/
  | ldXX (i : Idx) (y : RegX) (z : RegX)
  /-- `ADD A,(idx+d)`, R124. -/
  | addAIdxMem (i : Idx) (d : Byte)
  /-- `ADD A,idxH / ADD A,idxL`, R124. -/
  | addAHalf (i : Idx) (h : Half)
  /-- `ADC A,(idx+d)`, R125. -/
  | adcAIdxMem (i : Idx) (d : Byte)
  /-- `ADC A,idxH / ADC A,idxL`, R125. -/
  | adcAHalf (i : Idx) (h : Half)
  /-- `SUB (idx+d)`, R126. -/
  | subIdxMem (i : Idx) (d : Byte)
  /-- `SUB idxH / SUB idxL`, R126. -/
  | subHalf (i : Idx) (h : Half)
  /-- `SBC A,(idx+d)`, R127. -/
  | sbcAIdxMem (i : Idx) (d : Byte)
  /-- `SBC A,idxH / SBC A,idxL`, R127. -/
  | sbcAHalf (i : Idx) (h : Half)
  /-- `AND (idx+d)`, R128. -/
  | andIdxMem (i : Idx) (d : Byte)
  /-- `AND idxH / AND idxL`, R128. -/
  | andHalf (i : Idx) (h : Half)
  /-- `XOR (idx+d)`, R129. -/
  | xorIdxMem (i : Idx) (d : Byte)
  /-- `XOR idxH / XOR idxL`, R129. -/
  | xorHalf (i : Idx) (h : Half)
  /-- `OR (idx+d)`, R130. -/
  | orIdxMem (i : Idx) (d : Byte)
  /-- `OR idxH / OR idxL`, R130. -/
  | orHalf (i : Idx) (h : Half)
  /-- `CP (idx+d)`, R131. -/
  | cpIdxMem (i : Idx) (d : Byte)
  /-- `CP idxH / CP idxL`, R131. -/
  | cpHalf (i : Idx) (h : Half)
  /-- `POP idx`, R101. -/
  | popIdx (i : Idx)
  /-- `EX (SP),idx`, R106. -/
  | exSpIdx (i : Idx)
  /-- `PUSH idx`, R99. -/
  | pushIdx (i : Idx)
  /-- `JP (idx)`, R174. -/
  | jpIdx (i : Idx)
  /-- `LD SP,idx`, R97. -/
  | ldSpIdx (i : Idx)
  -- The ignored `DD`/`FD` byte (R65).
  /-- `(ignored DD/FD prefix)`, R65. -/
  | ignoredPrefix (i : Idx)
  -- The `DD CB d op` and `FD CB d op` maps (R64).
  /-- `RLC (idx+d)`, R155. -/
  | rlcIdxMem (i : Idx) (d : Byte)
  /-- `RLC (idx+d),r8[z] (result also to r8[z])`, R155. -/
  | rlcIdxCopy (i : Idx) (d : Byte) (z : Reg8)
  /-- `RRC (idx+d)`, R156. -/
  | rrcIdxMem (i : Idx) (d : Byte)
  /-- `RRC (idx+d),r8[z] (result also to r8[z])`, R156. -/
  | rrcIdxCopy (i : Idx) (d : Byte) (z : Reg8)
  /-- `RL (idx+d)`, R157. -/
  | rlIdxMem (i : Idx) (d : Byte)
  /-- `RL (idx+d),r8[z] (result also to r8[z])`, R157. -/
  | rlIdxCopy (i : Idx) (d : Byte) (z : Reg8)
  /-- `RR (idx+d)`, R158. -/
  | rrIdxMem (i : Idx) (d : Byte)
  /-- `RR (idx+d),r8[z] (result also to r8[z])`, R158. -/
  | rrIdxCopy (i : Idx) (d : Byte) (z : Reg8)
  /-- `SLA (idx+d)`, R159. -/
  | slaIdxMem (i : Idx) (d : Byte)
  /-- `SLA (idx+d),r8[z] (result also to r8[z])`, R159. -/
  | slaIdxCopy (i : Idx) (d : Byte) (z : Reg8)
  /-- `SRA (idx+d)`, R160. -/
  | sraIdxMem (i : Idx) (d : Byte)
  /-- `SRA (idx+d),r8[z] (result also to r8[z])`, R160. -/
  | sraIdxCopy (i : Idx) (d : Byte) (z : Reg8)
  /-- `SLL (idx+d)`, R161. -/
  | sllIdxMem (i : Idx) (d : Byte)
  /-- `SLL (idx+d),r8[z] (result also to r8[z])`, R161. -/
  | sllIdxCopy (i : Idx) (d : Byte) (z : Reg8)
  /-- `SRL (idx+d)`, R162. -/
  | srlIdxMem (i : Idx) (d : Byte)
  /-- `SRL (idx+d),r8[z] (result also to r8[z])`, R162. -/
  | srlIdxCopy (i : Idx) (d : Byte) (z : Reg8)
  /-- `BIT y,(idx+d)`, R163. -/
  | bitIdxMem (b : Fin 8) (i : Idx) (d : Byte)
  /-- `BIT y,(idx+d) (duplicate)`, R163. -/
  | bitIdxDup (b : Fin 8) (i : Idx) (d : Byte) (z : Reg8)
  /-- `RES y,(idx+d)`, R164. -/
  | resIdxMem (b : Fin 8) (i : Idx) (d : Byte)
  /-- `RES y,(idx+d),r8[z] (result also to r8[z])`, R164. -/
  | resIdxCopy (b : Fin 8) (i : Idx) (d : Byte) (z : Reg8)
  /-- `SET y,(idx+d)`, R165. -/
  | setIdxMem (b : Fin 8) (i : Idx) (d : Byte)
  /-- `SET y,(idx+d),r8[z] (result also to r8[z])`, R165. -/
  | setIdxCopy (b : Fin 8) (i : Idx) (d : Byte) (z : Reg8)
  deriving DecidableEq, Repr

end Sys2Proof
end

