-- ==== Sys2Proof/WellFormed.lean ====
section
/-!
DEFINITION. Which instruction terms are rows of the opcode table: the checks on the operand fields that the types do
not already make (30_encoding.md rules R61, R63, R66, R67).
-/

namespace Sys2Proof

/-- The `ED` entries that are undefined: x = 0; x = 3; x = 2 with z ≥ 4 or y < 4; `ED 77`; `ED 7F` (R61). -/
def undefinedEd (op : Byte) : Bool :=
  let x := op.toNat / 64
  let y := op.toNat / 8 % 8
  let z := op.toNat % 8
  x == 0 || x == 3 || (x == 2 && (decide (4 ≤ z) || decide (y < 4))) || op == 0x77 || op == 0x7F

/-- The term is an instruction of the table. `LD (nn),rp` and `LD rp,(nn)` leave HL to rows of their own (R90, R93);
a duplicate of `NEG` or `RETN` is not the documented encoding nor `RETI` (R61); a load with index halves names one
(R63); an undefined `ED` entry is none of the defined ones (R66). -/
def Instr.wf : Instr → Bool
  | .ldNnMemRp p _ => p != .hl
  | .ldRpNnMem p _ => p != .hl
  | .negDup y => y != 0
  | .retnDup y => y != 0 && y != 1
  | .edUndefined op => undefinedEd op
  | .ldXX _ y z => y.isHalf || z.isHalf
  | .nop | .exAfAf | .djnz _ | .jr _ | .jrCc _ _ | .ldRpNn _ _ | .addHlRp _ | .ldRpMemA _ | .ldNnMemHl _
  | .ldNnMemA _ | .ldARpMem _ | .ldHlNnMem _ | .ldANnMem _ | .incRp _ | .decRp _ | .incR8 _ | .decR8 _ | .ldRN _ _
  | .ldHlMemN _ | .rlca | .rrca | .rla | .rra | .daa | .cpl | .scf | .ccf | .ldRR _ _ | .ldRHlMem _ | .ldHlMemR _
  | .halt | .addAR8 _ | .adcAR8 _ | .subR8 _ | .sbcAR8 _ | .andR8 _ | .xorR8 _ | .orR8 _ | .cpR8 _ | .retCc _
  | .popRp2 _ | .ret | .exx | .jpHl | .ldSpHl | .jpCcNn _ _ | .jpNn _ | .outNA _ | .inAN _ | .exSpHl | .exDeHl
  | .di | .ei | .callCcNn _ _ | .pushRp2 _ | .callNn _ | .addAN _ | .adcAN _ | .subN _ | .sbcAN _ | .andN _
  | .xorN _ | .orN _ | .cpN _ | .rst _ | .rlcR8 _ | .rrcR8 _ | .rlR8 _ | .rrR8 _ | .slaR8 _ | .sraR8 _ | .sllR8 _
  | .srlR8 _ | .bitR8 _ _ | .resR8 _ _ | .setR8 _ _ | .inRC _ | .inFC | .outCR _ | .outC0 | .sbcHlRp _ | .adcHlRp _
  | .ldNnMemHlEd _ | .ldHlNnMemEd _ | .neg | .retn | .reti | .im0 | .im1 | .im2 | .im0Dup | .im1Dup | .im2Dup
  | .im01 _ | .ldIA | .ldRA | .ldAI | .ldAR | .rrd | .rld | .ldi | .cpi | .ini | .outi | .ldd | .cpd | .ind | .outd
  | .ldir | .cpir | .inir | .otir | .lddr | .cpdr | .indr | .otdr | .addIdxRp _ _ | .ldIdxNn _ _ | .ldNnMemIdx _ _
  | .ldIdxNnMem _ _ | .incIdx _ | .decIdx _ | .incHalf _ _ | .decHalf _ _ | .ldHalfN _ _ _ | .incIdxMem _ _
  | .decIdxMem _ _ | .ldIdxMemN _ _ _ | .ldRIdxMem _ _ _ | .ldIdxMemR _ _ _ | .addAIdxMem _ _ | .addAHalf _ _
  | .adcAIdxMem _ _ | .adcAHalf _ _ | .subIdxMem _ _ | .subHalf _ _ | .sbcAIdxMem _ _ | .sbcAHalf _ _
  | .andIdxMem _ _ | .andHalf _ _ | .xorIdxMem _ _ | .xorHalf _ _ | .orIdxMem _ _ | .orHalf _ _ | .cpIdxMem _ _
  | .cpHalf _ _ | .popIdx _ | .exSpIdx _ | .pushIdx _ | .jpIdx _ | .ldSpIdx _ | .ignoredPrefix _ | .rlcIdxMem _ _
  | .rlcIdxCopy _ _ _ | .rrcIdxMem _ _ | .rrcIdxCopy _ _ _ | .rlIdxMem _ _ | .rlIdxCopy _ _ _ | .rrIdxMem _ _
  | .rrIdxCopy _ _ _ | .slaIdxMem _ _ | .slaIdxCopy _ _ _ | .sraIdxMem _ _ | .sraIdxCopy _ _ _ | .sllIdxMem _ _
  | .sllIdxCopy _ _ _ | .srlIdxMem _ _ | .srlIdxCopy _ _ _ | .bitIdxMem _ _ _ | .bitIdxDup _ _ _ _
  | .resIdxMem _ _ _ | .resIdxCopy _ _ _ _ | .setIdxMem _ _ _ | .setIdxCopy _ _ _ _ => true

end Sys2Proof
end

