-- ==== Sys2Proof/Decode.lean ====
section
/-!
DEFINITION. The decoder, total on any bytes (30_encoding.md rules R52 to R70), and after it the encoder. Byte order of
`nn`, sign extension of `d` and `e`, and the fields of an opcode byte are here too (rules R39, R56, R58).
-/

namespace Sys2Proof

/-! ### Bytes and words (00_scope.md rule R8) -/

/-- `hi:lo`. -/
def joinBytes (hi lo : Byte) : Word := hi ++ lo

/-- `v[15:8]`. -/
def hiByte (v : Word) : Byte := v.extractLsb' 8 8

/-- `v[7:0]`. -/
def loByte (v : Word) : Byte := v.extractLsb' 0 8

/-- `sext_16(v8)`. -/
def signExtend16 (v : Byte) : Word := v.signExtend 16

/-! ### The fields of an opcode byte (R56) -/

/-- `op[7:6]`. -/
def fieldX (op : Byte) : Nat := op.toNat / 64

/-- `op[5:3]`. -/
def fieldY (op : Byte) : Fin 8 := ⟨op.toNat / 8 % 8, Nat.mod_lt _ (by decide)⟩

/-- `op[2:0]`. -/
def fieldZ (op : Byte) : Nat := op.toNat % 8

/-- `op[5:4]`. -/
def fieldP (op : Byte) : Nat := op.toNat / 16 % 4

/-- `op[3]`. -/
def fieldQ (op : Byte) : Nat := op.toNat / 8 % 2

/-- The opcode byte with fields x, y, z. -/
def opcode (x y z : Nat) : Byte := BitVec.ofNat 8 (64 * x + 8 * y + z)

/-- The opcode byte with fields x, p, q, z. -/
def opcodePq (x p q z : Nat) : Byte := opcode x (2 * p + q) z

/-! ### The decoding tables (R57) and their codes -/

def Reg8.code : Reg8 → Nat
  | .b => 0 | .c => 1 | .d => 2 | .e => 3 | .h => 4 | .l => 5 | .a => 7

def Opnd8.code : Opnd8 → Nat
  | .reg r => r.code
  | .hlMem => 6

/-- `r8[k]`. -/
def Opnd8.ofCode : Nat → Opnd8
  | 0 => .reg .b | 1 => .reg .c | 2 => .reg .d | 3 => .reg .e | 4 => .reg .h | 5 => .reg .l | 6 => .hlMem
  | _ => .reg .a

/-- The register of `r8[k]`, absent for the memory operand. -/
def Opnd8.reg? : Opnd8 → Option Reg8
  | .reg r => some r
  | .hlMem => none

def Rp.code : Rp → Nat
  | .bc => 0 | .de => 1 | .hl => 2 | .sp => 3

/-- `rp[k]`. -/
def Rp.ofCode : Nat → Rp
  | 0 => .bc | 1 => .de | 2 => .hl | _ => .sp

def Rp2.code : Rp2 → Nat
  | .bc => 0 | .de => 1 | .hl => 2 | .af => 3

/-- `rp2[k]`. -/
def Rp2.ofCode : Nat → Rp2
  | 0 => .bc | 1 => .de | 2 => .hl | _ => .af

def RpIdx.code : RpIdx → Nat
  | .bc => 0 | .de => 1 | .idx => 2 | .sp => 3

/-- `rp'[k]` (R63). -/
def RpIdx.ofCode : Nat → RpIdx
  | 0 => .bc | 1 => .de | 2 => .idx | _ => .sp

def BcDe.code : BcDe → Nat
  | .bc => 0 | .de => 1

def Cond.code : Cond → Nat
  | .nz => 0 | .z => 1 | .nc => 2 | .c => 3 | .po => 4 | .pe => 5 | .p => 6 | .m => 7

/-- `cc[k]`. -/
def Cond.ofCode : Nat → Cond
  | 0 => .nz | 1 => .z | 2 => .nc | 3 => .c | 4 => .po | 5 => .pe | 6 => .p | _ => .m

def JrCond.code : JrCond → Nat
  | .nz => 0 | .z => 1 | .nc => 2 | .c => 3

/-- The byte that selects the index register: `DD` or `FD` (R56). -/
def Idx.code : Idx → Byte
  | .ix => 0xDD | .iy => 0xFD

/-- The field value of `idxH` and `idxL` in place of H and L (R62). -/
def Half.code : Half → Nat
  | .hi => 4 | .lo => 5

def RegX.code : RegX → Nat
  | .b => 0 | .c => 1 | .d => 2 | .e => 3 | .idxH => 4 | .idxL => 5 | .a => 7

/-- `r8x[k]`, absent at k = 6 (R63). -/
def RegX.ofCode : Nat → Option RegX
  | 0 => some .b | 1 => some .c | 2 => some .d | 3 => some .e | 4 => some .idxH | 5 => some .idxL | 7 => some .a
  | _ => none

/-! ### The maps -/

/-- `alu[y] r8[z]` (R59, x = 2). -/
def decodeAluR8 (y : Fin 8) (o : Opnd8) : Instr :=
  match y with
  | 0 => .addAR8 o | 1 => .adcAR8 o | 2 => .subR8 o | 3 => .sbcAR8 o
  | 4 => .andR8 o | 5 => .xorR8 o | 6 => .orR8 o | 7 => .cpR8 o

/-- `alu[y] n` (R59, x = 3, z = 6). -/
def decodeAluN (y : Fin 8) (n : Byte) : Instr :=
  match y with
  | 0 => .addAN n | 1 => .adcAN n | 2 => .subN n | 3 => .sbcAN n
  | 4 => .andN n | 5 => .xorN n | 6 => .orN n | 7 => .cpN n

/-- `alu[y] (idx+d)` (R63). -/
def decodeAluIdxMem (y : Fin 8) (i : Idx) (d : Byte) : Instr :=
  match y with
  | 0 => .addAIdxMem i d | 1 => .adcAIdxMem i d | 2 => .subIdxMem i d | 3 => .sbcAIdxMem i d
  | 4 => .andIdxMem i d | 5 => .xorIdxMem i d | 6 => .orIdxMem i d | 7 => .cpIdxMem i d

/-- `alu[y] idxH`, `alu[y] idxL` (R63). -/
def decodeAluHalf (y : Fin 8) (i : Idx) (h : Half) : Instr :=
  match y with
  | 0 => .addAHalf i h | 1 => .adcAHalf i h | 2 => .subHalf i h | 3 => .sbcAHalf i h
  | 4 => .andHalf i h | 5 => .xorHalf i h | 6 => .orHalf i h | 7 => .cpHalf i h

/-- `rot[y] r8[z]` (R60, x = 0). -/
def decodeRotR8 (y : Fin 8) (o : Opnd8) : Instr :=
  match y with
  | 0 => .rlcR8 o | 1 => .rrcR8 o | 2 => .rlR8 o | 3 => .rrR8 o
  | 4 => .slaR8 o | 5 => .sraR8 o | 6 => .sllR8 o | 7 => .srlR8 o

/-- `rot[y] (idx+d)` (R64, x = 0). -/
def decodeRotIdxMem (y : Fin 8) (i : Idx) (d : Byte) : Instr :=
  match y with
  | 0 => .rlcIdxMem i d | 1 => .rrcIdxMem i d | 2 => .rlIdxMem i d | 3 => .rrIdxMem i d
  | 4 => .slaIdxMem i d | 5 => .sraIdxMem i d | 6 => .sllIdxMem i d | 7 => .srlIdxMem i d

/-- `rot[y] (idx+d)` with the result also written to `r8[z]` (R64, x = 0, z ≠ 6). -/
def decodeRotIdxCopy (y : Fin 8) (i : Idx) (d : Byte) (z : Reg8) : Instr :=
  match y with
  | 0 => .rlcIdxCopy i d z | 1 => .rrcIdxCopy i d z | 2 => .rlIdxCopy i d z | 3 => .rrIdxCopy i d z
  | 4 => .slaIdxCopy i d z | 5 => .sraIdxCopy i d z | 6 => .sllIdxCopy i d z | 7 => .srlIdxCopy i d z

/-- The base map, x = 0 (R59). -/
def decodeX0 (op n : Byte) (nn : Word) : Instr :=
  let y := fieldY op
  let q := fieldQ op
  let p := fieldP op
  match fieldZ op with
  | 0 => match y with
    | 0 => .nop | 1 => .exAfAf | 2 => .djnz n | 3 => .jr n
    | 4 => .jrCc .nz n | 5 => .jrCc .z n | 6 => .jrCc .nc n | 7 => .jrCc .c n
  | 1 => if q = 0 then .ldRpNn (Rp.ofCode p) nn else .addHlRp (Rp.ofCode p)
  | 2 => match y with
    | 0 => .ldRpMemA .bc | 1 => .ldARpMem .bc | 2 => .ldRpMemA .de | 3 => .ldARpMem .de
    | 4 => .ldNnMemHl nn | 5 => .ldHlNnMem nn | 6 => .ldNnMemA nn | 7 => .ldANnMem nn
  | 3 => if q = 0 then .incRp (Rp.ofCode p) else .decRp (Rp.ofCode p)
  | 4 => .incR8 (Opnd8.ofCode y)
  | 5 => .decR8 (Opnd8.ofCode y)
  | 6 => match Opnd8.ofCode y with
    | .reg r => .ldRN r n
    | .hlMem => .ldHlMemN n
  | _ => match y with
    | 0 => .rlca | 1 => .rrca | 2 => .rla | 3 => .rra | 4 => .daa | 5 => .cpl | 6 => .scf | 7 => .ccf

/-- The base map, x = 1 (R59). -/
def decodeX1 (op : Byte) : Instr :=
  match Opnd8.ofCode (fieldY op), Opnd8.ofCode (fieldZ op) with
  | .reg y, .reg z => .ldRR y z
  | .reg y, .hlMem => .ldRHlMem y
  | .hlMem, .reg z => .ldHlMemR z
  | .hlMem, .hlMem => .halt

/-- The base map, x = 3 (R59). The entries `CB`, `DD`, `ED`, `FD` select another map (R53) and never come here; the
`NOP` they give stands for no encoding. -/
def decodeX3 (op n : Byte) (nn : Word) : Instr :=
  let y := fieldY op
  let q := fieldQ op
  let p := fieldP op
  match fieldZ op with
  | 0 => .retCc (Cond.ofCode y)
  | 1 => if q = 0 then .popRp2 (Rp2.ofCode p) else
    match p with
    | 0 => .ret | 1 => .exx | 2 => .jpHl | _ => .ldSpHl
  | 2 => .jpCcNn (Cond.ofCode y) nn
  | 3 => match y with
    | 0 => .jpNn nn | 1 => .nop | 2 => .outNA n | 3 => .inAN n | 4 => .exSpHl | 5 => .exDeHl | 6 => .di | 7 => .ei
  | 4 => .callCcNn (Cond.ofCode y) nn
  | 5 => if q = 0 then .pushRp2 (Rp2.ofCode p) else
    match p with
    | 0 => .callNn nn | _ => .nop
  | 6 => decodeAluN y n
  | _ => .rst y

/-- The base map (R59). -/
def decodeBase (op n : Byte) (nn : Word) : Instr :=
  match fieldX op with
  | 0 => decodeX0 op n nn
  | 1 => decodeX1 op
  | 2 => decodeAluR8 (fieldY op) (Opnd8.ofCode (fieldZ op))
  | _ => decodeX3 op n nn

/-- The `CB` map (R60). -/
def decodeCb (op : Byte) : Instr :=
  let y := fieldY op
  let o := Opnd8.ofCode (fieldZ op)
  match fieldX op with
  | 0 => decodeRotR8 y o
  | 1 => .bitR8 y o
  | 2 => .resR8 y o
  | _ => .setR8 y o

/-- The `ED` map, x = 1 (R61). -/
def decodeEdX1 (op : Byte) (nn : Word) : Instr :=
  let y := fieldY op
  let q := fieldQ op
  let rp := Rp.ofCode (fieldP op)
  match fieldZ op with
  | 0 => match Opnd8.ofCode y with
    | .reg r => .inRC r
    | .hlMem => .inFC
  | 1 => match Opnd8.ofCode y with
    | .reg r => .outCR r
    | .hlMem => .outC0
  | 2 => if q = 0 then .sbcHlRp rp else .adcHlRp rp
  | 3 =>
    if q = 0 then if rp = .hl then .ldNnMemHlEd nn else .ldNnMemRp rp nn
    else if rp = .hl then .ldHlNnMemEd nn else .ldRpNnMem rp nn
  | 4 => if y = 0 then .neg else .negDup y
  | 5 => match y with
    | 0 => .retn | 1 => .reti | y => .retnDup y
  | 6 => match y with
    | 0 => .im0 | 1 => .im01 false | 2 => .im1 | 3 => .im2
    | 4 => .im0Dup | 5 => .im01 true | 6 => .im1Dup | 7 => .im2Dup
  | _ => match y with
    | 0 => .ldIA | 1 => .ldRA | 2 => .ldAI | 3 => .ldAR | 4 => .rrd | 5 => .rld | _ => .edUndefined op

/-- `bli[y][z]`, the block entries of the `ED` map (R57, R61). -/
def decodeBlock (op : Byte) : Instr :=
  match fieldY op, fieldZ op with
  | 4, 0 => .ldi | 4, 1 => .cpi | 4, 2 => .ini | 4, 3 => .outi
  | 5, 0 => .ldd | 5, 1 => .cpd | 5, 2 => .ind | 5, 3 => .outd
  | 6, 0 => .ldir | 6, 1 => .cpir | 6, 2 => .inir | 6, 3 => .otir
  | 7, 0 => .lddr | 7, 1 => .cpdr | 7, 2 => .indr | 7, 3 => .otdr
  | _, _ => .edUndefined op

/-- The `ED` map (R61): what it does not define is the two-byte no-op (R66). -/
def decodeEd (op : Byte) (nn : Word) : Instr :=
  match fieldX op with
  | 1 => decodeEdX1 op nn
  | 2 => decodeBlock op
  | _ => .edUndefined op

/-- A load of the `DD`/`FD` map, `01yyyzzz` (R63): with `(idx+d)` the other operand is not substituted; without it one
of the two must be a half of idx. -/
def decodeDdLoad (i : Idx) (op d : Byte) : Option Instr :=
  match Opnd8.ofCode (fieldY op), Opnd8.ofCode (fieldZ op) with
  | .hlMem, .hlMem => none
  | .reg y, .hlMem => some (.ldRIdxMem y i d)
  | .hlMem, .reg z => some (.ldIdxMemR i d z)
  | .reg _, .reg _ =>
    match RegX.ofCode (fieldY op), RegX.ofCode (fieldZ op) with
    | some y, some z => if y.isHalf || z.isHalf then some (.ldXX i y z) else none
    | _, _ => none

/-- The entries of the `DD`/`FD` map with x = 0 (R63). -/
def decodeDdX0 (i : Idx) (op d n : Byte) (nn : Word) : Option Instr :=
  match op.toNat with
  | 0x09 => some (.addIdxRp i .bc) | 0x19 => some (.addIdxRp i .de)
  | 0x29 => some (.addIdxRp i .idx) | 0x39 => some (.addIdxRp i .sp)
  | 0x21 => some (.ldIdxNn i nn) | 0x22 => some (.ldNnMemIdx i nn) | 0x2A => some (.ldIdxNnMem i nn)
  | 0x23 => some (.incIdx i) | 0x2B => some (.decIdx i)
  | 0x24 => some (.incHalf i .hi) | 0x2C => some (.incHalf i .lo)
  | 0x25 => some (.decHalf i .hi) | 0x2D => some (.decHalf i .lo)
  | 0x26 => some (.ldHalfN i .hi d) | 0x2E => some (.ldHalfN i .lo d)
  | 0x34 => some (.incIdxMem i d) | 0x35 => some (.decIdxMem i d) | 0x36 => some (.ldIdxMemN i d n)
  | _ => none

/-- The entries of the `DD`/`FD` map with x = 3, but for `CB` (R63). -/
def decodeDdX3 (i : Idx) (op : Byte) : Option Instr :=
  match op.toNat with
  | 0xE1 => some (.popIdx i) | 0xE3 => some (.exSpIdx i) | 0xE5 => some (.pushIdx i)
  | 0xE9 => some (.jpIdx i) | 0xF9 => some (.ldSpIdx i)
  | _ => none

/-- The `DD` and `FD` maps (R63), absent where the map has no entry. The bytes after the opcode are `d` then `n`, or
`n` alone (the first of them), or `nn`. -/
def decodeDd (i : Idx) (op b2 b3 : Byte) : Option Instr :=
  match fieldX op with
  | 0 => decodeDdX0 i op b2 b3 (joinBytes b3 b2)
  | 1 => decodeDdLoad i op b2
  | 2 => match fieldZ op with
    | 4 => some (decodeAluHalf (fieldY op) i .hi)
    | 5 => some (decodeAluHalf (fieldY op) i .lo)
    | 6 => some (decodeAluIdxMem (fieldY op) i b2)
    | _ => none
  | _ => decodeDdX3 i op

/-- The `DD CB d op` and `FD CB d op` maps (R64). -/
def decodeXcb (i : Idx) (d op : Byte) : Instr :=
  let y := fieldY op
  match fieldX op, Opnd8.ofCode (fieldZ op) with
  | 0, .hlMem => decodeRotIdxMem y i d
  | 0, .reg z => decodeRotIdxCopy y i d z
  | 1, .hlMem => .bitIdxMem y i d
  | 1, .reg z => .bitIdxDup y i d z
  | 2, .hlMem => .resIdxMem y i d
  | 2, .reg z => .resIdxCopy y i d z
  | _, .hlMem => .setIdxMem y i d
  | _, .reg z => .setIdxCopy y i d z

/-- After a `DD` or `FD` byte (R53): the XCB map, the DD map, or the ignored byte (R65). -/
def decodeIndexed (i : Idx) (b1 b2 b3 : Byte) : Instr :=
  if b1 = 0xCB then decodeXcb i b2 b3
  else match decodeDd i b1 b2 b3 with
    | some instr => instr
    | none => .ignoredPrefix i

/-- The instruction that starts with the four bytes (R53); bytes past its end are not looked at, but for the byte
after a `DD` or `FD` (R65). Total: every sequence of bytes is an instruction (R69). -/
def decodeBytes (b0 b1 b2 b3 : Byte) : Instr :=
  if b0 = 0xCB then decodeCb b1
  else if b0 = 0xED then decodeEd b1 (joinBytes b3 b2)
  else if b0 = 0xDD then decodeIndexed .ix b1 b2 b3
  else if b0 = 0xFD then decodeIndexed .iy b1 b2 b3
  else decodeBase b0 b1 (joinBytes b2 b1)

/-! ### The length of an instruction (R70) -/

/-- `CB`, `DD`, `ED` or `FD`: the byte selects another map (R53). -/
def selectsMap (b0 : Byte) : Bool := b0 == 0xCB || b0 == 0xDD || b0 == 0xED || b0 == 0xFD

/-- The length of a base-map instruction from its opcode (R70, R55, R59). -/
def baseLength (op : Byte) : Nat :=
  let q := fieldQ op
  match fieldX op, fieldZ op with
  | 0, 0 => if fieldY op < 2 then 1 else 2
  | 0, 1 => if q = 0 then 3 else 1
  | 0, 2 => if fieldP op < 2 then 1 else 3
  | 0, 6 => 2
  | 3, 2 => 3
  | 3, 3 => match fieldY op with
    | 0 => 3 | 2 => 2 | 3 => 2 | _ => 1
  | 3, 4 => 3
  | 3, 5 => if op = 0xCD then 3 else 1
  | 3, 6 => 2
  | _, _ => 1

/-- `ED` entries with an `nn` operand: `43/4B/53/5B/63/6B/73/7B` (R70). -/
def edLength (op : Byte) : Nat := if fieldX op = 1 ∧ fieldZ op = 3 then 4 else 2

/-- The length after a `DD` or `FD` byte: 1 if ignored, 4 if `CB`, else 2 and the operand bytes (R70, R63). -/
def ddLength (op : Byte) : Nat :=
  if op = 0xCB then 4 else
  match decodeDd .ix op 0 0 with
  | none => 1
  | some _ =>
    match fieldX op, fieldZ op with
    | 0, 1 => if op = 0x21 then 4 else 2
    | 0, 2 => 4
    | 0, 4 => if op = 0x34 then 3 else 2
    | 0, 5 => if op = 0x35 then 3 else 2
    | 0, 6 => if op = 0x36 then 4 else 3
    | 1, 6 => 3
    | 1, _ => if fieldY op = 6 then 3 else 2
    | 2, 6 => 3
    | _, _ => 2

/-- The length of the instruction from its first two bytes (R70). -/
def instrLength (b0 b1 : Byte) : Nat :=
  if b0 = 0xCB then 2
  else if b0 = 0xED then edLength b1
  else if b0 = 0xDD ∨ b0 = 0xFD then ddLength b1
  else baseLength b0

/-- How many bytes the decoder must see: the instruction, and after a map-selecting byte the byte that follows it
(the look-ahead of R65). -/
def bytesSeen (b0 b1 : Byte) : Nat := if selectsMap b0 then max 2 (instrLength b0 b1) else instrLength b0 b1

/-! ### The decoder on a list of bytes -/

/-- The one reason a list of bytes is rejected: it ends inside the instruction. -/
inductive DecodeError where
  | truncated
  deriving DecidableEq, Repr

/-- The instruction at the head of the bytes and the bytes after it. -/
def decode (bytes : List Byte) : Except DecodeError (Instr × List Byte) :=
  match bytes with
  | [] => .error .truncated
  | b0 :: rest =>
    let b1 := rest.getD 0 0
    if bytes.length < bytesSeen b0 b1 then .error .truncated
    else .ok (decodeBytes b0 b1 (rest.getD 1 0) (rest.getD 2 0), bytes.drop (instrLength b0 b1))

/-- The bytes of an instruction in fetch order (R55, R58; the `encoding` column of opcode_table.json). -/
def Instr.encode : Instr → List Byte
  | .nop => [0x00]
  | .exAfAf => [0x08]
  | .djnz e => [0x10, e]
  | .jr e => [0x18, e]
  | .jrCc cc e => [opcode 0 (4 + cc.code) 0, e]
  | .ldRpNn p nn => [opcodePq 0 p.code 0 1, loByte nn, hiByte nn]
  | .addHlRp p => [opcodePq 0 p.code 1 1]
  | .ldRpMemA p => [opcodePq 0 p.code 0 2]
  | .ldNnMemHl nn => [0x22, loByte nn, hiByte nn]
  | .ldNnMemA nn => [0x32, loByte nn, hiByte nn]
  | .ldARpMem p => [opcodePq 0 p.code 1 2]
  | .ldHlNnMem nn => [0x2A, loByte nn, hiByte nn]
  | .ldANnMem nn => [0x3A, loByte nn, hiByte nn]
  | .incRp p => [opcodePq 0 p.code 0 3]
  | .decRp p => [opcodePq 0 p.code 1 3]
  | .incR8 o => [opcode 0 o.code 4]
  | .decR8 o => [opcode 0 o.code 5]
  | .ldRN r n => [opcode 0 r.code 6, n]
  | .ldHlMemN n => [0x36, n]
  | .rlca => [0x07]
  | .rrca => [0x0F]
  | .rla => [0x17]
  | .rra => [0x1F]
  | .daa => [0x27]
  | .cpl => [0x2F]
  | .scf => [0x37]
  | .ccf => [0x3F]
  | .ldRR y z => [opcode 1 y.code z.code]
  | .ldRHlMem y => [opcode 1 y.code 6]
  | .ldHlMemR z => [opcode 1 6 z.code]
  | .halt => [0x76]
  | .addAR8 o => [opcode 2 0 o.code]
  | .adcAR8 o => [opcode 2 1 o.code]
  | .subR8 o => [opcode 2 2 o.code]
  | .sbcAR8 o => [opcode 2 3 o.code]
  | .andR8 o => [opcode 2 4 o.code]
  | .xorR8 o => [opcode 2 5 o.code]
  | .orR8 o => [opcode 2 6 o.code]
  | .cpR8 o => [opcode 2 7 o.code]
  | .retCc cc => [opcode 3 cc.code 0]
  | .popRp2 p => [opcodePq 3 p.code 0 1]
  | .ret => [0xC9]
  | .exx => [0xD9]
  | .jpHl => [0xE9]
  | .ldSpHl => [0xF9]
  | .jpCcNn cc nn => [opcode 3 cc.code 2, loByte nn, hiByte nn]
  | .jpNn nn => [0xC3, loByte nn, hiByte nn]
  | .outNA n => [0xD3, n]
  | .inAN n => [0xDB, n]
  | .exSpHl => [0xE3]
  | .exDeHl => [0xEB]
  | .di => [0xF3]
  | .ei => [0xFB]
  | .callCcNn cc nn => [opcode 3 cc.code 4, loByte nn, hiByte nn]
  | .pushRp2 p => [opcodePq 3 p.code 0 5]
  | .callNn nn => [0xCD, loByte nn, hiByte nn]
  | .addAN n => [opcode 3 0 6, n]
  | .adcAN n => [opcode 3 1 6, n]
  | .subN n => [opcode 3 2 6, n]
  | .sbcAN n => [opcode 3 3 6, n]
  | .andN n => [opcode 3 4 6, n]
  | .xorN n => [opcode 3 5 6, n]
  | .orN n => [opcode 3 6 6, n]
  | .cpN n => [opcode 3 7 6, n]
  | .rst y => [opcode 3 y.val 7]
  | .rlcR8 o => [0xCB, opcode 0 0 o.code]
  | .rrcR8 o => [0xCB, opcode 0 1 o.code]
  | .rlR8 o => [0xCB, opcode 0 2 o.code]
  | .rrR8 o => [0xCB, opcode 0 3 o.code]
  | .slaR8 o => [0xCB, opcode 0 4 o.code]
  | .sraR8 o => [0xCB, opcode 0 5 o.code]
  | .sllR8 o => [0xCB, opcode 0 6 o.code]
  | .srlR8 o => [0xCB, opcode 0 7 o.code]
  | .bitR8 b o => [0xCB, opcode 1 b.val o.code]
  | .resR8 b o => [0xCB, opcode 2 b.val o.code]
  | .setR8 b o => [0xCB, opcode 3 b.val o.code]
  | .inRC y => [0xED, opcode 1 y.code 0]
  | .inFC => [0xED, 0x70]
  | .outCR y => [0xED, opcode 1 y.code 1]
  | .outC0 => [0xED, 0x71]
  | .sbcHlRp p => [0xED, opcodePq 1 p.code 0 2]
  | .adcHlRp p => [0xED, opcodePq 1 p.code 1 2]
  | .ldNnMemRp p nn => [0xED, opcodePq 1 p.code 0 3, loByte nn, hiByte nn]
  | .ldNnMemHlEd nn => [0xED, 0x63, loByte nn, hiByte nn]
  | .ldRpNnMem p nn => [0xED, opcodePq 1 p.code 1 3, loByte nn, hiByte nn]
  | .ldHlNnMemEd nn => [0xED, 0x6B, loByte nn, hiByte nn]
  | .neg => [0xED, 0x44]
  | .negDup y => [0xED, opcode 1 y.val 4]
  | .retn => [0xED, 0x45]
  | .reti => [0xED, 0x4D]
  | .retnDup y => [0xED, opcode 1 y.val 5]
  | .im0 => [0xED, 0x46]
  | .im1 => [0xED, 0x56]
  | .im2 => [0xED, 0x5E]
  | .im0Dup => [0xED, 0x66]
  | .im1Dup => [0xED, 0x76]
  | .im2Dup => [0xED, 0x7E]
  | .im01 q => [0xED, if q then 0x6E else 0x4E]
  | .ldIA => [0xED, 0x47]
  | .ldRA => [0xED, 0x4F]
  | .ldAI => [0xED, 0x57]
  | .ldAR => [0xED, 0x5F]
  | .rrd => [0xED, 0x67]
  | .rld => [0xED, 0x6F]
  | .ldi => [0xED, 0xA0]
  | .cpi => [0xED, 0xA1]
  | .ini => [0xED, 0xA2]
  | .outi => [0xED, 0xA3]
  | .ldd => [0xED, 0xA8]
  | .cpd => [0xED, 0xA9]
  | .ind => [0xED, 0xAA]
  | .outd => [0xED, 0xAB]
  | .ldir => [0xED, 0xB0]
  | .cpir => [0xED, 0xB1]
  | .inir => [0xED, 0xB2]
  | .otir => [0xED, 0xB3]
  | .lddr => [0xED, 0xB8]
  | .cpdr => [0xED, 0xB9]
  | .indr => [0xED, 0xBA]
  | .otdr => [0xED, 0xBB]
  | .edUndefined op => [0xED, op]
  | .addIdxRp i p => [i.code, opcodePq 0 p.code 1 1]
  | .ldIdxNn i nn => [i.code, 0x21, loByte nn, hiByte nn]
  | .ldNnMemIdx i nn => [i.code, 0x22, loByte nn, hiByte nn]
  | .ldIdxNnMem i nn => [i.code, 0x2A, loByte nn, hiByte nn]
  | .incIdx i => [i.code, 0x23]
  | .decIdx i => [i.code, 0x2B]
  | .incHalf i h => [i.code, opcode 0 h.code 4]
  | .decHalf i h => [i.code, opcode 0 h.code 5]
  | .ldHalfN i h n => [i.code, opcode 0 h.code 6, n]
  | .incIdxMem i d => [i.code, 0x34, d]
  | .decIdxMem i d => [i.code, 0x35, d]
  | .ldIdxMemN i d n => [i.code, 0x36, d, n]
  | .ldRIdxMem y i d => [i.code, opcode 1 y.code 6, d]
  | .ldIdxMemR i d z => [i.code, opcode 1 6 z.code, d]
  | .ldXX i y z => [i.code, opcode 1 y.code z.code]
  | .addAIdxMem i d => [i.code, opcode 2 0 6, d]
  | .addAHalf i h => [i.code, opcode 2 0 h.code]
  | .adcAIdxMem i d => [i.code, opcode 2 1 6, d]
  | .adcAHalf i h => [i.code, opcode 2 1 h.code]
  | .subIdxMem i d => [i.code, opcode 2 2 6, d]
  | .subHalf i h => [i.code, opcode 2 2 h.code]
  | .sbcAIdxMem i d => [i.code, opcode 2 3 6, d]
  | .sbcAHalf i h => [i.code, opcode 2 3 h.code]
  | .andIdxMem i d => [i.code, opcode 2 4 6, d]
  | .andHalf i h => [i.code, opcode 2 4 h.code]
  | .xorIdxMem i d => [i.code, opcode 2 5 6, d]
  | .xorHalf i h => [i.code, opcode 2 5 h.code]
  | .orIdxMem i d => [i.code, opcode 2 6 6, d]
  | .orHalf i h => [i.code, opcode 2 6 h.code]
  | .cpIdxMem i d => [i.code, opcode 2 7 6, d]
  | .cpHalf i h => [i.code, opcode 2 7 h.code]
  | .popIdx i => [i.code, 0xE1]
  | .exSpIdx i => [i.code, 0xE3]
  | .pushIdx i => [i.code, 0xE5]
  | .jpIdx i => [i.code, 0xE9]
  | .ldSpIdx i => [i.code, 0xF9]
  | .ignoredPrefix i => [i.code]
  | .rlcIdxMem i d => [i.code, 0xCB, d, opcode 0 0 6]
  | .rlcIdxCopy i d z => [i.code, 0xCB, d, opcode 0 0 z.code]
  | .rrcIdxMem i d => [i.code, 0xCB, d, opcode 0 1 6]
  | .rrcIdxCopy i d z => [i.code, 0xCB, d, opcode 0 1 z.code]
  | .rlIdxMem i d => [i.code, 0xCB, d, opcode 0 2 6]
  | .rlIdxCopy i d z => [i.code, 0xCB, d, opcode 0 2 z.code]
  | .rrIdxMem i d => [i.code, 0xCB, d, opcode 0 3 6]
  | .rrIdxCopy i d z => [i.code, 0xCB, d, opcode 0 3 z.code]
  | .slaIdxMem i d => [i.code, 0xCB, d, opcode 0 4 6]
  | .slaIdxCopy i d z => [i.code, 0xCB, d, opcode 0 4 z.code]
  | .sraIdxMem i d => [i.code, 0xCB, d, opcode 0 5 6]
  | .sraIdxCopy i d z => [i.code, 0xCB, d, opcode 0 5 z.code]
  | .sllIdxMem i d => [i.code, 0xCB, d, opcode 0 6 6]
  | .sllIdxCopy i d z => [i.code, 0xCB, d, opcode 0 6 z.code]
  | .srlIdxMem i d => [i.code, 0xCB, d, opcode 0 7 6]
  | .srlIdxCopy i d z => [i.code, 0xCB, d, opcode 0 7 z.code]
  | .bitIdxMem b i d => [i.code, 0xCB, d, opcode 1 b.val 6]
  | .bitIdxDup b i d z => [i.code, 0xCB, d, opcode 1 b.val z.code]
  | .resIdxMem b i d => [i.code, 0xCB, d, opcode 2 b.val 6]
  | .resIdxCopy b i d z => [i.code, 0xCB, d, opcode 2 b.val z.code]
  | .setIdxMem b i d => [i.code, 0xCB, d, opcode 3 b.val 6]
  | .setIdxCopy b i d z => [i.code, 0xCB, d, opcode 3 b.val z.code]

/-- The undocumented encodings, gated by `UNDOC_OPS` (R67). -/
def Instr.undocumented : Instr → Bool
  | .sllR8 _ | .inFC | .outC0 | .ldNnMemHlEd _ | .ldHlNnMemEd _ | .negDup _ | .retnDup _ | .im0Dup | .im1Dup
  | .im2Dup | .im01 _ | .incHalf _ _ | .decHalf _ _ | .ldHalfN _ _ _ | .ldXX _ _ _ | .addAHalf _ _ | .adcAHalf _ _
  | .subHalf _ _ | .sbcAHalf _ _ | .andHalf _ _ | .xorHalf _ _ | .orHalf _ _ | .cpHalf _ _ | .rlcIdxCopy _ _ _
  | .rrcIdxCopy _ _ _ | .rlIdxCopy _ _ _ | .rrIdxCopy _ _ _ | .slaIdxCopy _ _ _ | .sraIdxCopy _ _ _
  | .sllIdxMem _ _ | .sllIdxCopy _ _ _ | .srlIdxCopy _ _ _ | .bitIdxDup _ _ _ _ | .resIdxCopy _ _ _ _
  | .setIdxCopy _ _ _ _ => true
  | .nop | .exAfAf | .djnz _ | .jr _ | .jrCc _ _ | .ldRpNn _ _ | .addHlRp _ | .ldRpMemA _ | .ldNnMemHl _
  | .ldNnMemA _ | .ldARpMem _ | .ldHlNnMem _ | .ldANnMem _ | .incRp _ | .decRp _ | .incR8 _ | .decR8 _ | .ldRN _ _
  | .ldHlMemN _ | .rlca | .rrca | .rla | .rra | .daa | .cpl | .scf | .ccf | .ldRR _ _ | .ldRHlMem _ | .ldHlMemR _
  | .halt | .addAR8 _ | .adcAR8 _ | .subR8 _ | .sbcAR8 _ | .andR8 _ | .xorR8 _ | .orR8 _ | .cpR8 _ | .retCc _
  | .popRp2 _ | .ret | .exx | .jpHl | .ldSpHl | .jpCcNn _ _ | .jpNn _ | .outNA _ | .inAN _ | .exSpHl | .exDeHl
  | .di | .ei | .callCcNn _ _ | .pushRp2 _ | .callNn _ | .addAN _ | .adcAN _ | .subN _ | .sbcAN _ | .andN _
  | .xorN _ | .orN _ | .cpN _ | .rst _ | .rlcR8 _ | .rrcR8 _ | .rlR8 _ | .rrR8 _ | .slaR8 _ | .sraR8 _ | .srlR8 _
  | .bitR8 _ _ | .resR8 _ _ | .setR8 _ _ | .inRC _ | .outCR _ | .sbcHlRp _ | .adcHlRp _ | .ldNnMemRp _ _
  | .ldRpNnMem _ _ | .neg | .retn | .reti | .im0 | .im1 | .im2 | .ldIA | .ldRA | .ldAI | .ldAR | .rrd | .rld | .ldi
  | .cpi | .ini | .outi | .ldd | .cpd | .ind | .outd | .ldir | .cpir | .inir | .otir | .lddr | .cpdr | .indr
  | .otdr | .edUndefined _ | .addIdxRp _ _ | .ldIdxNn _ _ | .ldNnMemIdx _ _ | .ldIdxNnMem _ _ | .incIdx _
  | .decIdx _ | .incIdxMem _ _ | .decIdxMem _ _ | .ldIdxMemN _ _ _ | .ldRIdxMem _ _ _ | .ldIdxMemR _ _ _
  | .addAIdxMem _ _ | .adcAIdxMem _ _ | .subIdxMem _ _ | .sbcAIdxMem _ _ | .andIdxMem _ _ | .xorIdxMem _ _
  | .orIdxMem _ _ | .cpIdxMem _ _ | .popIdx _ | .exSpIdx _ | .pushIdx _ | .jpIdx _ | .ldSpIdx _ | .ignoredPrefix _
  | .rlcIdxMem _ _ | .rrcIdxMem _ _ | .rlIdxMem _ _ | .rrIdxMem _ _ | .slaIdxMem _ _ | .sraIdxMem _ _
  | .srlIdxMem _ _ | .bitIdxMem _ _ _ | .resIdxMem _ _ _ | .setIdxMem _ _ _ => false

/-- The key bytes of an encoding: the prefix bytes and the opcode byte, without the displacement that stands before the
opcode after `DD CB` and `FD CB` (R73). -/
def Instr.keyBytes (i : Instr) : List Byte :=
  match i.encode with
  | [b0, b1, _, b3] => if b1 = 0xCB then [b0, b1, b3] else if selectsMap b0 then [b0, b1] else [b0]
  | b0 :: b1 :: _ => if selectsMap b0 then [b0, b1] else [b0]
  | bytes => bytes

/-! ### The words of the opcode table -/

/-- The bytes, in fetch order, of the key number w of an opcode-table row, then zeros: the key bytes are written in
fetch order as one number, so the FIRST byte is the most significant; a key of three bytes is `px CB op`, and the
displacement, 0, stands before `op` (R73). A key of two bytes or more starts with a map-selecting byte, which is not 0,
so w itself says how many bytes it has. DEDUCED (log 15). -/
def tableBytes (_nbits w : Nat) : List Byte :=
  let byte (k : Nat) : Byte := BitVec.ofNat 8 (w / 2 ^ (8 * k))
  if w < 0x100 then [byte 0, 0, 0, 0]
  else if w < 0x10000 then [byte 1, byte 0, 0, 0]
  else if w < 0x1000000 then [byte 2, byte 1, 0, byte 0]
  else [byte 3, byte 2, byte 1, byte 0]

/-- The instruction the decoder reads from an opcode-table word. -/
def decodeTableWord (nbits w : Nat) : Option Instr :=
  match decode (tableBytes nbits w) with
  | .ok (i, _) => some i
  | .error _ => none

end Sys2Proof
end

