-- ==== Sys2Proof/Config.lean ====
section
/-!
DEFINITION. What an implementation fixes and what the spec leaves free: the open parameters (00_scope.md rule R6), the
form of an answer of the environment (20_memory.md rules R35, R51; 60_exceptions.md rule R221), the free values, which
are constants with no body, and what a byte of memory nothing has written reads as.
-/

namespace Sys2Proof

namespace Config

/-- `UNDOC_OPS` (R6): whether the encodings of 30_encoding.md rule R67 execute or are refused. -/
inductive UndocOps where
  | silicon | refuse
  deriving DecidableEq, Repr

/-- `UNDOC_FLAGS` (R6): whether the undocumented flag bits take the silicon's values or are draws. -/
inductive UndocFlags where
  | silicon | draw
  deriving DecidableEq, Repr

/-- `R_MODEL` (R6): whether the refresh register counts fetches or reads as a draw. -/
inductive RModel where
  | count | draw
  deriving DecidableEq, Repr

/-- The open parameters of R6. A state holds them, so a statement about every state holds for every value. -/
structure Params where
  undocOps   : UndocOps
  undocFlags : UndocFlags
  rModel     : RModel
  deriving DecidableEq, Repr

/-- One interaction the core has had with the environment: a Bus access of 20_memory.md rule R37, or a call of the
VectorProvider (60_exceptions.md rule R221) with the selector it answered. -/
inductive BusEvent where
  | memRead (addr : Word) (data : Byte)
  | memWrite (addr : Word) (data : Byte)
  | ioRead (port : Word) (data : Byte)
  | ioWrite (port : Word) (data : Byte)
  | provider (selector : Option Byte)
  deriving DecidableEq, Repr

/-- What the core asks of the environment. -/
inductive BusRequest where
  | memRead (addr : Word)
  | memWrite (addr : Word) (data : Byte)
  | ioRead (port : Word)
  | ioWrite (port : Word) (data : Byte)
  | provider
  deriving DecidableEq, Repr

/-- The host calls with a precondition, by name: none of them is allowed while a `Run` of the same core is in progress
(60_exceptions.md rules R235, R236). -/
inductive HostCallName where
  | init | reset | run | saveContext | loadContext
  deriving DecidableEq, Repr

/-- What the environment answers: the byte a read returns or a provider selects, whether a provider answers None
instead (R221), and the host calls its callback made on this core: `TriggerNMI`, and the last `SetLevelInterrupt`
(R51), and the first call that is not allowed there, if it made one (R235). -/
structure Answer where
  data     : Byte
  declined : Bool
  nmi      : Bool
  line     : Option Bool
  call     : Option HostCallName
  deriving DecidableEq, Repr, Inhabited

/-- The environment's free answer to a request, given the whole history of accesses (R35; 93 U11 to U14). DESIGN
CHOICE, safe: nothing constrains it (log 4). -/
opaque freeAnswer (history : List BusEvent) (request : BusRequest) : Answer

/-- The flag draws of one step: bit k is the draw for bit k of F (R112, D17). Safe: nothing constrains it (log 8). -/
opaque freeFlags (draw : Nat) : Byte

/-- The draw for the refresh register of one step (10_state.md rule R26, D18). Safe (log 9). -/
opaque freeRefresh (draw : Nat) : Byte

/-- The draw from {0, 1} of `ED 4E` and `ED 6E`: true for mode 1 (45_system.md rule R203, D37). Safe (log 9). -/
opaque freeMode (draw : Nat) : Bool

/-- What a byte of plain memory that nothing has written reads as. DESIGN CHOICE, unsafe: the spec leaves memory's
contents to the platform (20_memory.md rule R45); its vectors take 0x00 (log 2). -/
def unlistedByte : Byte := 0x00

end Config

end Sys2Proof
end

