-- ==== Sys2Proof/Machine/State.lean ====
section
/-!
DEFINITION. The state of one core (10_state.md), as plain data, the state after reset (10_state.md rule R33,
70_reset_and_hazards.md rule R244), and the reasons a step can stop (60_exceptions.md rule R209).
-/

namespace Sys2Proof.Machine

/-- The eight one-bit cells of F (10_state.md rules R15, R21), bit 7 first. -/
structure Flags where
  s  : Bool
  z  : Bool
  y  : Bool
  h  : Bool
  x  : Bool
  pv : Bool
  n  : Bool
  c  : Bool
  deriving DecidableEq, Repr

/-- One bank of the general registers (10_state.md rules R16, R17). -/
structure Bank where
  a : Byte
  f : Flags
  b : Byte
  c : Byte
  d : Byte
  e : Byte
  h : Byte
  l : Byte
  deriving DecidableEq, Repr

/-- The interrupt-mode selector: no other value is reachable (10_state.md rule R28). -/
inductive IntMode where
  | im0 | im1 | im2
  deriving DecidableEq, Repr

/-- A range of addresses that a device behind the Bus answers (20_memory.md rule R35; log 3). -/
structure Region where
  base : Nat
  size : Nat
  deriving DecidableEq, Repr

/-- What the Bus capability given to `Init` is, as far as the core's accesses can tell: which addresses a device
answers; every other address is plain memory (20_memory.md rules R35, R47; log 3). -/
structure Bus where
  devices : List Region
  deriving DecidableEq, Repr

/-- All the state of a core instance and of the memory behind its Bus. `violation` and the last four fields are the
model's own. -/
structure State where
  /-- A, F, B, C, D, E, H, L (R16). -/
  regs : Bank
  /-- A', F', B', C', D', E', H', L' (R17). -/
  alt : Bank
  /-- Index register (R18). -/
  ix : Word
  /-- Index register (R18). -/
  iy : Word
  /-- Stack pointer (R19). -/
  sp : Word
  /-- Program counter (R20). -/
  pc : Word
  /-- I, the interrupt vector base (R25). -/
  i : Byte
  /-- R, the memory refresh counter (R26). -/
  r : Byte
  /-- Maskable interrupts enabled now (R27). -/
  iff1 : Bool
  /-- What a return from a non-maskable interrupt restores IFF1 to (R27). -/
  iff2 : Bool
  /-- The interrupt mode (R28). -/
  im : IntMode
  /-- Set by `HALT`, cleared by an acceptance and by Reset (R29). -/
  halted : Bool
  /-- The edge-triggered non-maskable request (R30). -/
  nmiLatch : Bool
  /-- The level-triggered maskable request (R31). -/
  intLine : Bool
  /-- Set by `Init` (R32). -/
  initialised : Bool
  /-- The Bus capability, absent until `Init` (R32). -/
  bus : Option Bus
  /-- Whether a VectorProvider is installed (R32, R221). -/
  provider : Bool
  /-- The one mark of PC, IFF1, IFF2, IM, I, R, halted and the two lines: they have been written, by `Reset` or by
  `LoadContext` of a core on which they had (R15, R33; 70_reset_and_hazards.md rule R246; log 1). -/
  controlWritten : Bool
  /-- The forbidden host call a callback has made in this step, which is the fault it ends in; a state that holds one
  is faulted for good (60_exceptions.md rules R209, R235; log 13). -/
  violation : Option Config.HostCallName
  /-- Plain memory: the bytes that differ from `Config.unlistedByte`, addresses rising (20_memory.md rule R43). -/
  mem : List Host.Cell
  /-- The open parameters (00_scope.md rule R6); no step changes them. -/
  params : Config.Params
  /-- Answers the environment has already fixed, oldest first; when none is left its answers are free (log 4). -/
  answers : List Config.Answer
  /-- Every Bus access and provider call so far, newest first (20_memory.md rule R37; log 6). -/
  trace : List Config.BusEvent
  /-- The index of this step's free values; every step advances it (log 8). -/
  draws : Nat
  deriving DecidableEq, Repr

/-- The control cells a poll can find unwritten (70_reset_and_hazards.md rule R246). -/
inductive ControlCell where
  | nmiLatch | halted
  deriving DecidableEq, Repr

/-- Why the machine stops with a fault, with what the model records of it (60_exceptions.md rule R209). -/
inductive Fault where
  /-- Raised by the poll of a core on which neither `Reset` nor `LoadContext` has been called since it was constructed
  (R246), with the cell read. PC is itself unwritten then, so there is no PC to record. No other read faults: every
  register holds a value (log 1). The spec's own fault; safe. -/
  | unwrittenRead (cell : ControlCell)
  /-- Raised, with the host call, by a step, or by `Run`, of a core that `Init` has not initialised (R229), by a second
  `Init` (R231), and by a host call that is not allowed while a `Run` is in progress, made by the host or by a callback
  of a step (R235). The spec's own fault; safe. -/
  | preconditionViolation (call : Config.HostCallName)
  /-- Raised by `LoadContext` of a blob that `SaveContext` did not produce (R234). The spec's own fault; safe. -/
  | invalidContextBlob
  deriving DecidableEq, Repr

/-- Why an instruction is given no meaning. -/
inductive Refusal where
  /-- Raised by an arm of `exec` whose instruction has no meaning yet. No arm does. Safe. -/
  | notModelled (mnemonic : String)
  /-- Raised by the meaning of an encoding of 30_encoding.md rule R67 when `UNDOC_OPS = Refuse`, with the address of its
  first byte and its key bytes; the spec's own refusal (R68, R209). Safe. -/
  | undocumentedOpcode (pc : Word) (key : List Byte)
  deriving DecidableEq, Repr

/-- No flag set. -/
def Flags.none : Flags :=
  { s := false, z := false, y := false, h := false, x := false, pv := false, n := false, c := false }

/-- The bank State.reset holds. DESIGN CHOICE, unsafe: the spec gives no reset value for these cells (R33); zero
(log 1). -/
def Bank.zero : Bank := { a := 0, f := Flags.none, b := 0, c := 0, d := 0, e := 0, h := 0, l := 0 }

/-- The machine right after reset: PC, IFF1, IFF2, IM, I, R, halted and the two lines as R33 and R244 say. The other
registers hold the values log 1 names. `Init` has been done, as R246 orders, with a Bus of plain memory only and no
provider (log 10); memory lists nothing (log 2); the open parameters are the test vectors' (log 7). -/
def State.reset : State where
  regs := Bank.zero
  alt := Bank.zero
  ix := 0
  iy := 0
  sp := 0
  pc := 0x0000
  i := 0x00
  r := 0x00
  iff1 := false
  iff2 := false
  im := .im0
  halted := false
  nmiLatch := false
  intLine := false
  initialised := true
  bus := some { devices := [] }
  provider := false
  controlWritten := true
  violation := none
  mem := []
  params := { undocOps := .silicon, undocFlags := .silicon, rModel := .count }
  answers := []
  trace := []
  draws := 0

end Sys2Proof.Machine
end

