-- ==== Sys2Proof/Machine/Ops.lean ====
section
/-!
DEFINITION. The named operations over memory, ports, the environment, the stack and the interrupt state (00_scope.md
rule R10, 20_memory.md, 60_exceptions.md): every meaning is written over these.
-/

namespace Sys2Proof.Machine

/-! ### Plain memory: a sorted list of the bytes that differ from what an unlisted address reads as -/

/-- The byte at an address. -/
def Memory.read : List Host.Cell → Nat → Byte
  | [], _ => Config.unlistedByte
  | (b, w) :: rest, a => if b = a then w else Memory.read rest a

/-- The cells of every other address. -/
def Memory.erase : List Host.Cell → Nat → List Host.Cell
  | [], _ => []
  | (b, w) :: rest, a => if b = a then Memory.erase rest a else (b, w) :: Memory.erase rest a

/-- The cells with a new one put before the first higher address. -/
def Memory.insert : List Host.Cell → Nat → Byte → List Host.Cell
  | [], a, v => [(a, v)]
  | (b, w) :: rest, a, v => if a < b then (a, v) :: (b, w) :: rest else (b, w) :: Memory.insert rest a v

/-- Stores a byte; storing what an unlisted address reads as removes the cell. -/
def Memory.write (m : List Host.Cell) (a : Nat) (v : Byte) : List Host.Cell :=
  if v = Config.unlistedByte then Memory.erase m a else Memory.insert (Memory.erase m a) a v

/-- Every address is at least `lo`, each above the one before it, inside the 2^16 bytes of R43, and no cell holds what
an unlisted address reads as. -/
def Memory.risesFrom : Nat → List Host.Cell → Bool
  | _, [] => true
  | lo, (a, v) :: rest => decide (lo ≤ a) && decide (a < 0x10000) && v != Config.unlistedByte && Memory.risesFrom (a + 1) rest

/-- The canonical form: equal memories are equal lists. -/
def Memory.wf (m : List Host.Cell) : Bool := Memory.risesFrom 0 m

/-! ### The Bus (20_memory.md) -/

/-- The address lies in the region. -/
def Region.covers (g : Region) (a : Nat) : Bool := decide (g.base ≤ a) && decide (a < g.base + g.size)

/-- A device behind the Bus answers at the address; otherwise it is plain memory (R35, R47; log 3). -/
def State.isDevice (s : State) (a : Word) : Bool :=
  match s.bus with
  | some bus => bus.devices.any (fun g => g.covers a.toNat)
  | none => false

/-- The environment's answer: the next one it has already fixed, else a free one that may depend on the whole history
of accesses (R35; log 4). -/
def State.answerTo (s : State) (request : Config.BusRequest) : Config.Answer :=
  match s.answers with
  | answer :: _ => answer
  | [] => Config.freeAnswer s.trace request

/-- Records an interaction (R37). -/
def State.logged (event : Config.BusEvent) (s : State) : State := { s with trace := event :: s.trace }

/-- An answer is used up, and the host calls its callback made act on the two lines at once (R51, 60 R212); one that is
not allowed is kept for the fault the step ends in, the first one if there are more (60 R235). -/
def State.answered (answer : Config.Answer) (event : Config.BusEvent) (s : State) : State :=
  { s with
    answers := s.answers.tail
    nmiLatch := s.nmiLatch || answer.nmi
    intLine := answer.line.getD s.intLine
    violation := s.violation.or answer.call
    trace := event :: s.trace }

/-- `MemRead(addr, 1)`: one `Read8` (R10, R35, R37). -/
def State.memRead (s : State) (a : Word) : Byte × State :=
  if s.isDevice a then
    let answer := s.answerTo (.memRead a)
    (answer.data, s.answered answer (.memRead a answer.data))
  else
    let v := Memory.read s.mem a.toNat
    (v, s.logged (.memRead a v))

/-- `MemWrite(addr, 1, v)`: one `Write8` (R10, R35, R37). A device takes the byte; plain memory stores it. -/
def State.memWrite (s : State) (a : Word) (v : Byte) : State :=
  if s.isDevice a then s.answered (s.answerTo (.memWrite a v)) (.memWrite a v)
  else { s with mem := Memory.write s.mem a.toNat v, trace := .memWrite a v :: s.trace }

/-- `MemRead(addr, 2)`: the low byte first, `addr+1` modulo 2^16 (R10, R38, R39). -/
def State.memRead16 (s : State) (a : Word) : Word × State :=
  let lo := s.memRead a
  let hi := lo.2.memRead (a + 1)
  (joinBytes hi.1 lo.1, hi.2)

/-- `MemWrite(addr, 2, v)`: the low byte first (R10, R38, R39). -/
def State.memWrite16 (s : State) (a v : Word) : State := (s.memWrite a (loByte v)).memWrite (a + 1) (hiByte v)

/-- `IoRead(port)` (R44). A port is always a device's. -/
def State.ioRead (s : State) (port : Word) : Byte × State :=
  let answer := s.answerTo (.ioRead port)
  (answer.data, s.answered answer (.ioRead port answer.data))

/-- `IoWrite(port, v)` (R44). -/
def State.ioWrite (s : State) (port : Word) (v : Byte) : State :=
  s.answered (s.answerTo (.ioWrite port v)) (.ioWrite port v)

/-- A call of the VectorProvider: None, or a byte (R221). -/
def State.callProvider (s : State) : Option Byte × State :=
  let answer := s.answerTo .provider
  let selector := if answer.declined then none else some answer.data
  (selector, s.answered answer (.provider selector))

/-! ### The stack and the program counter (R10) -/

def State.setPc (v : Word) (s : State) : State := { s with pc := v }

def State.setSp (v : Word) (s : State) : State := { s with sp := v }

/-- `push16(v)`: the high byte at SP-1 first, then the low byte at SP-2. -/
def State.push16 (v : Word) (s : State) : State :=
  let s1 := (s.setSp (s.sp - 1)).memWrite (s.sp - 1) (hiByte v)
  (s1.setSp (s1.sp - 1)).memWrite (s1.sp - 1) (loByte v)

/-- `pop16()`: the low byte at SP first; SP is incremented after each byte. -/
def State.pop16 (s : State) : Word × State :=
  let lo := s.memRead s.sp
  let s1 := lo.2.setSp (lo.2.sp + 1)
  let hi := s1.memRead s1.sp
  (joinBytes hi.1 lo.1, hi.2.setSp (hi.2.sp + 1))

/-- `fetch8()`: the byte at PC, and PC advanced. -/
def State.fetch8 (s : State) : Byte × State :=
  let v := s.memRead s.pc
  (v.1, v.2.setPc (v.2.pc + 1))

/-! ### The refresh register and the free values of a step -/

/-- `R[6:0]` advanced by n modulo 128, `R[7]` kept (10_state.md rule R26). -/
def advanceR (r : Byte) (n : Nat) : Byte := (r &&& 0x80) ||| BitVec.ofNat 8 ((r.toNat + n) % 128)

/-- Counts n opcode fetches or acceptances for R, when `R_MODEL = Count` (R26). -/
def State.countR (n : Nat) (s : State) : State :=
  match s.params.rModel with
  | .count => { s with r := advanceR s.r n }
  | .draw => s

/-- `R[6:0] <- draw(7)`, when `R_MODEL = Count`: on leaving the halted state (R26). -/
def State.drawR (s : State) : State :=
  match s.params.rModel with
  | .count => { s with r := (s.r &&& 0x80) ||| (Config.freeRefresh s.draws &&& 0x7F) }
  | .draw => s

/-- Moves on to the free values of the next step (log 8). -/
def State.nextDraw (s : State) : State := { s with draws := s.draws + 1 }

/-- An encoding of 30_encoding.md rule R67: its effect, or the refusal of R68 with the address of the instruction, which
PC is past, and its key bytes (60 R209). -/
def State.undocumented (i : Instr) (s t : State) : Host.Outcome State Fault Refusal :=
  match s.params.undocOps with
  | .silicon => .next t
  | .refuse => .refused (.undocumentedOpcode (s.pc - BitVec.ofNat 16 i.encode.length) i.keyBytes)

/-- What follows a point of a step, unless a callback has made a forbidden host call by then: that is the fault the
step ends in, and nothing later happens (60 R209, R223, R235). -/
def State.unlessViolated {α : Type} (s : State) (later : Host.Outcome α Fault Refusal) : Host.Outcome α Fault Refusal :=
  match s.violation with
  | none => later
  | some call => .fault (.preconditionViolation call)

/-! ### Taking an interrupt, and the return from one (60_exceptions.md) -/

/-- `accept_prologue()` (R215, R222): a halted core steps past its `HALT` byte; R counts the acceptance. -/
def State.acceptPrologue (s : State) : State :=
  if s.halted then ({ s with pc := s.pc + 1, halted := false }.drawR).countR 1 else s.countR 1

/-- What every acceptance does (R215, R225): the prologue, PC pushed, the jump, IFF1 cleared, IFF2 as given. -/
def State.takeInterrupt (target : Word) (iff2 : Bool) (s : State) : State :=
  let s1 := s.acceptPrologue
  { s1.push16 s1.pc with pc := target, iff1 := false, iff2 := iff2 }

/-- `nmi_accept()` (R216): to 0x0066, `IFF2 <- IFF1`, and at the end the latch is cleared. -/
def State.acceptNmi (s : State) : State := { s.takeInterrupt 0x0066 s.iff1 with nmiLatch := false }

/-- `int_m0()` (R217, R220): the provider must select one of the eight `RST` opcodes. -/
def State.acceptMode0 (s : State) : State × Bool :=
  if s.provider then
    let answer := s.callProvider
    match answer.1 with
    | some b =>
      if b &&& 0xC7 = 0xC7 then (answer.2.takeInterrupt (joinBytes 0 (b &&& 0x38)) false, true) else (answer.2, false)
    | none => (answer.2, false)
  else (s, false)

/-- `int_m1()` (R218): to 0x0038; a provider is called afterwards and its selector ignored. -/
def State.acceptMode1 (s : State) : State :=
  let s1 := s.takeInterrupt 0x0038 false
  if s1.provider then s1.callProvider.2 else s1

/-- `int_m2()` (R219, R220): the vector is the word at `I:b`, read before the push. -/
def State.acceptMode2 (s : State) : State × Bool :=
  if s.provider then
    let answer := s.callProvider
    match answer.1 with
    | some b =>
      let vector := answer.2.memRead16 (joinBytes answer.2.i b)
      (vector.2.takeInterrupt vector.1 false, true)
    | none => (answer.2, false)
  else (s, false)

/-- `poll()` (R214): the state after it, and whether it accepted. -/
def State.poll (s : State) : State × Bool :=
  if s.nmiLatch then (s.acceptNmi, true)
  else if s.intLine && s.iff1 then
    match s.im with
    | .im0 => s.acceptMode0
    | .im1 => (s.acceptMode1, true)
    | .im2 => s.acceptMode2
  else (s, false)

/-- `PC <- pop16(); IFF1 <- IFF2`: the return from an interrupt (R226; 43_control.md rules R179, R180). -/
def State.returnFromInterrupt (s : State) : State :=
  let p := s.pop16
  { p.2 with pc := p.1, iff1 := p.2.iff2 }

end Sys2Proof.Machine
end

