-- ==== Sys2Proof/Machine/Operands.lean ====
section
/-!
DEFINITION. Reading and writing every operand form: the registers, pairs and index registers of the decoding tables
(30_encoding.md rule R57), the memory operands `(HL)` and `(idx+d)` (rules R57, R58), and the conditions (10_state.md
rule R24). Every register has one home, and only these operations read or write it by name.
-/

namespace Sys2Proof.Machine

/-! ### 8-bit registers -/

/-- `r8[k]`, k ≠ 6, read. -/
def Bank.get (g : Bank) : Reg8 → Byte
  | .b => g.b | .c => g.c | .d => g.d | .e => g.e | .h => g.h | .l => g.l | .a => g.a

/-- `r8[k]`, k ≠ 6, written. -/
def Bank.set (g : Bank) (r : Reg8) (v : Byte) : Bank :=
  match r with
  | .b => { g with b := v } | .c => { g with c := v } | .d => { g with d := v } | .e => { g with e := v }
  | .h => { g with h := v } | .l => { g with l := v } | .a => { g with a := v }

def State.reg (s : State) (r : Reg8) : Byte := s.regs.get r

def State.setReg (r : Reg8) (v : Byte) (s : State) : State := { s with regs := s.regs.set r v }

def State.setA (v : Byte) (s : State) : State := s.setReg .a v

/-- F written, all eight cells. -/
def State.setF (f : Flags) (s : State) : State := { s with regs := { s.regs with f := f } }

/-! ### 16-bit registers -/

def State.bc (s : State) : Word := joinBytes s.regs.b s.regs.c

def State.de (s : State) : Word := joinBytes s.regs.d s.regs.e

def State.hl (s : State) : Word := joinBytes s.regs.h s.regs.l

def State.setBc (v : Word) (s : State) : State := { s with regs := { s.regs with b := hiByte v, c := loByte v } }

def State.setDe (v : Word) (s : State) : State := { s with regs := { s.regs with d := hiByte v, e := loByte v } }

def State.setHl (v : Word) (s : State) : State := { s with regs := { s.regs with h := hiByte v, l := loByte v } }

/-- `rp[p]` read. -/
def State.pair (s : State) : Rp → Word
  | .bc => s.bc | .de => s.de | .hl => s.hl | .sp => s.sp

/-- `rp[p]` written. -/
def State.setPair (p : Rp) (v : Word) (s : State) : State :=
  match p with
  | .bc => s.setBc v | .de => s.setDe v | .hl => s.setHl v | .sp => s.setSp v

/-- The pointer of `LD A,(rp)` and `LD (rp),A`. -/
def State.bcDe (s : State) : BcDe → Word
  | .bc => s.bc | .de => s.de

/-- F as a byte: S Z Y H X PV N C, bit 7 first (10_state.md rule R21). -/
def Flags.toByte (f : Flags) : Byte :=
  BitVec.ofNat 8 (128 * f.s.toNat + 64 * f.z.toNat + 32 * f.y.toNat + 16 * f.h.toNat + 8 * f.x.toNat + 4 * f.pv.toNat +
    2 * f.n.toNat + f.c.toNat)

/-- A byte as F. -/
def Flags.ofByte (v : Byte) : Flags where
  s := v.getLsbD 7
  z := v.getLsbD 6
  y := v.getLsbD 5
  h := v.getLsbD 4
  x := v.getLsbD 3
  pv := v.getLsbD 2
  n := v.getLsbD 1
  c := v.getLsbD 0

/-- `rp2[p]` read: `PUSH AF` reads A and all of F. -/
def State.pair2 (s : State) : Rp2 → Word
  | .bc => s.bc | .de => s.de | .hl => s.hl | .af => joinBytes s.regs.a s.regs.f.toByte

/-- `rp2[p]` written: `POP AF` writes A and all of F. -/
def State.setPair2 (p : Rp2) (v : Word) (s : State) : State :=
  match p with
  | .bc => s.setBc v | .de => s.setDe v | .hl => s.setHl v
  | .af => { s with regs := { s.regs with a := hiByte v, f := Flags.ofByte (loByte v) } }

/-! ### The index registers (10_state.md rule R18) -/

def State.idx (s : State) : Idx → Word
  | .ix => s.ix | .iy => s.iy

def State.setIdx (i : Idx) (v : Word) (s : State) : State :=
  match i with
  | .ix => { s with ix := v }
  | .iy => { s with iy := v }

/-- `idxH`, `idxL` read. -/
def State.half (s : State) (i : Idx) : Half → Byte
  | .hi => hiByte (s.idx i)
  | .lo => loByte (s.idx i)

/-- `idxH`, `idxL` written; the other half is unchanged. -/
def State.setHalf (i : Idx) (h : Half) (v : Byte) (s : State) : State :=
  match h with
  | .hi => s.setIdx i (joinBytes v (loByte (s.idx i)))
  | .lo => s.setIdx i (joinBytes (hiByte (s.idx i)) v)

/-- `rp'[p]` of `ADD idx,rp'` (41_arith_logic.md rule R140). -/
def State.pairIdx (s : State) (i : Idx) : RpIdx → Word
  | .bc => s.bc | .de => s.de | .idx => s.idx i | .sp => s.sp

/-- `r8x[k]` read (40_load_exchange.md rule R86). -/
def State.regX (s : State) (i : Idx) : RegX → Byte
  | .b => s.regs.b | .c => s.regs.c | .d => s.regs.d | .e => s.regs.e | .a => s.regs.a
  | .idxH => s.half i .hi
  | .idxL => s.half i .lo

/-- `r8x[k]` written. -/
def State.setRegX (i : Idx) (x : RegX) (v : Byte) (s : State) : State :=
  match x with
  | .b => s.setReg .b v | .c => s.setReg .c v | .d => s.setReg .d v | .e => s.setReg .e v | .a => s.setReg .a v
  | .idxH => s.setHalf i .hi v
  | .idxL => s.setHalf i .lo v

/-! ### Memory operands -/

/-- `EA = (idx + sext_16(d)) mod 2^16` (30_encoding.md rule R58). -/
def State.indexed (s : State) (i : Idx) (d : Byte) : Word := s.idx i + signExtend16 d

/-- `r8[k]` read: entry 6 is `MemRead(HL,1)` (R57). -/
def State.readOpnd (s : State) : Opnd8 → Byte × State
  | .reg r => (s.reg r, s)
  | .hlMem => s.memRead s.hl

/-- `r8[k]` written: entry 6 is `MemWrite(HL,1,v)` (R57). -/
def State.writeOpnd (o : Opnd8) (v : Byte) (s : State) : State :=
  match o with
  | .reg r => s.setReg r v
  | .hlMem => s.memWrite s.hl v

/-! ### Conditions and relative jumps -/

/-- `cc[k]` (10_state.md rule R24). -/
def State.cond (s : State) : Cond → Bool
  | .nz => !s.regs.f.z | .z => s.regs.f.z
  | .nc => !s.regs.f.c | .c => s.regs.f.c
  | .po => !s.regs.f.pv | .pe => s.regs.f.pv
  | .p => !s.regs.f.s | .m => s.regs.f.s

/-- The condition of `JR cc`: the first four of `cc`. -/
def jrCondition : JrCond → Cond
  | .nz => .nz | .z => .z | .nc => .nc | .c => .c

/-- `PC <- PC + sext_16(e)`, PC being past the instruction (30_encoding.md rule R58). -/
def State.jumpRelative (e : Byte) (s : State) : State := s.setPc (s.pc + signExtend16 e)

end Sys2Proof.Machine
end

