-- ==== Sys2Proof/Machine/Flags.lean ====
section
/-!
DEFINITION. Every flag computation of the spec (41_arith_logic.md rules R112 to R122, and those of the block, bit, rotate
and port instructions), as pure functions of the operands and the prior F, and the one operation that writes F with the
undocumented bits settled (rule R112, 92_eei_decisions.md D17).

A flag function gives the bits `UNDOC_FLAGS = Silicon` gives; `State.putFlags` replaces those that are draws.
-/

namespace Sys2Proof.Machine

/-! ### Draws -/

/-- Y and X. -/
def Flags.maskXY : Flags := { Flags.none with y := true, x := true }

/-- The flags of `BIT` the Zilog documentation leaves undefined: S, PV, Y, X (42_rotate_bit.md rule R163). -/
def Flags.maskBit : Flags := { Flags.none with s := true, pv := true, y := true, x := true }

/-- The flags of block I/O it leaves undefined: all but Z (44_io.md rule R184). -/
def Flags.maskBlockIo : Flags :=
  { s := true, z := false, y := true, h := true, x := true, pv := true, n := true, c := true }

/-- The draws of a block I/O execution that repeats: Y, X, H, PV (44_io.md rule R193). -/
def Flags.maskRepeatIo : Flags := { Flags.none with y := true, x := true, h := true, pv := true }

/-- The flags set in either. -/
def Flags.union (f g : Flags) : Flags where
  s := f.s || g.s
  z := f.z || g.z
  y := f.y || g.y
  h := f.h || g.h
  x := f.x || g.x
  pv := f.pv || g.pv
  n := f.n || g.n
  c := f.c || g.c

/-- The flags of `free` where the mask is set, those of `f` elsewhere. -/
def Flags.mix (mask free f : Flags) : Flags where
  s := bif mask.s then free.s else f.s
  z := bif mask.z then free.z else f.z
  y := bif mask.y then free.y else f.y
  h := bif mask.h then free.h else f.h
  x := bif mask.x then free.x else f.x
  pv := bif mask.pv then free.pv else f.pv
  n := bif mask.n then free.n else f.n
  c := bif mask.c then free.c else f.c

/-- The flags an instruction draws: those that are draws under either setting, and those the documentation leaves
undefined when `UNDOC_FLAGS = Draw` (R112). -/
def State.drawMask (s : State) (always undefined : Flags) : Flags :=
  match s.params.undocFlags with
  | .silicon => always
  | .draw => always.union undefined

/-- F written with `f`, its draws taken from this step's free value (R112, D17; log 8). -/
def State.putFlags (always undefined : Flags) (f : Flags) (s : State) : State :=
  s.setF (Flags.mix (s.drawMask always undefined) (Flags.ofByte (Config.freeFlags s.draws)) f)

/-- F written by an instruction whose only undocumented bits are Y and X. -/
def State.putXY (f : Flags) (s : State) : State := s.putFlags Flags.none Flags.maskXY f

/-! ### The flag functions -/

/-- 1 iff the byte has an even number of 1 bits (00_scope.md rule R8). -/
def parity (v : Byte) : Bool :=
  !(v.getLsbD 0 ^^ v.getLsbD 1 ^^ v.getLsbD 2 ^^ v.getLsbD 3 ^^ v.getLsbD 4 ^^ v.getLsbD 5 ^^ v.getLsbD 6 ^^ v.getLsbD 7)

/-- `XY(v)` of the silicon: `F.Y <- v[5]; F.X <- v[3]` (R112). -/
def Flags.withXY (v : Byte) (f : Flags) : Flags := { f with y := v.getLsbD 5, x := v.getLsbD 3 }

/-- `SZP(v)` (R113). -/
def Flags.withSZP (v : Byte) (f : Flags) : Flags := { f with s := v.getLsbD 7, z := v == 0, pv := parity v }

/-- `add8(a, b, c)` (R114). -/
def add8 (a b : Byte) (c : Bool) : Byte × Flags :=
  let sum := a.toNat + b.toNat + c.toNat
  let r : Byte := BitVec.ofNat 8 sum
  (r, { s := r.getLsbD 7
        z := r == 0
        y := r.getLsbD 5
        h := decide (a.toNat % 16 + b.toNat % 16 + c.toNat > 15)
        x := r.getLsbD 3
        pv := a.getLsbD 7 == b.getLsbD 7 && r.getLsbD 7 != a.getLsbD 7
        n := false
        c := decide (sum > 255) })

/-- `sub8(a, b, c)` (R115). -/
def sub8 (a b : Byte) (c : Bool) : Byte × Flags :=
  let r : Byte := a - b - BitVec.ofNat 8 c.toNat
  (r, { s := r.getLsbD 7
        z := r == 0
        y := r.getLsbD 5
        h := decide (a.toNat % 16 < b.toNat % 16 + c.toNat)
        x := r.getLsbD 3
        pv := a.getLsbD 7 != b.getLsbD 7 && r.getLsbD 7 != a.getLsbD 7
        n := true
        c := decide (a.toNat < b.toNat + c.toNat) })

/-- `inc8(v)`, C unchanged (R116). -/
def inc8 (f : Flags) (v : Byte) : Byte × Flags :=
  let r := v + 1
  (r, { s := r.getLsbD 7
        z := r == 0
        y := r.getLsbD 5
        h := v.toNat % 16 == 15
        x := r.getLsbD 3
        pv := v == 0x7F
        n := false
        c := f.c })

/-- `dec8(v)`, C unchanged (R117). -/
def dec8 (f : Flags) (v : Byte) : Byte × Flags :=
  let r := v - 1
  (r, { s := r.getLsbD 7
        z := r == 0
        y := r.getLsbD 5
        h := v.toNat % 16 == 0
        x := r.getLsbD 3
        pv := v == 0x80
        n := true
        c := f.c })

/-- `logic(r, h)` (R118). -/
def logicFlags (r : Byte) (h : Bool) : Flags :=
  { s := r.getLsbD 7, z := r == 0, y := r.getLsbD 5, h := h, x := r.getLsbD 3, pv := parity r, n := false, c := false }

/-- `add16(a, b)`; S, Z, PV unchanged (R119). -/
def add16 (f : Flags) (a b : Word) : Word × Flags :=
  let r := a + b
  (r, { f with
        y := (hiByte r).getLsbD 5
        h := decide (a.toNat % 0x1000 + b.toNat % 0x1000 > 0xFFF)
        x := (hiByte r).getLsbD 3
        n := false
        c := decide (a.toNat + b.toNat > 0xFFFF) })

/-- `adc16(a, b, c)` (R120). -/
def adc16 (a b : Word) (c : Bool) : Word × Flags :=
  let sum := a.toNat + b.toNat + c.toNat
  let r : Word := BitVec.ofNat 16 sum
  (r, { s := r.getLsbD 15
        z := r == 0
        y := (hiByte r).getLsbD 5
        h := decide (a.toNat % 0x1000 + b.toNat % 0x1000 + c.toNat > 0xFFF)
        x := (hiByte r).getLsbD 3
        pv := a.getLsbD 15 == b.getLsbD 15 && r.getLsbD 15 != a.getLsbD 15
        n := false
        c := decide (sum > 0xFFFF) })

/-- `sbc16(a, b, c)` (R121). -/
def sbc16 (a b : Word) (c : Bool) : Word × Flags :=
  let r : Word := a - b - BitVec.ofNat 16 c.toNat
  (r, { s := r.getLsbD 15
        z := r == 0
        y := (hiByte r).getLsbD 5
        h := decide (a.toNat % 0x1000 < b.toNat % 0x1000 + c.toNat)
        x := (hiByte r).getLsbD 3
        pv := a.getLsbD 15 != b.getLsbD 15 && r.getLsbD 15 != a.getLsbD 15
        n := true
        c := decide (a.toNat < b.toNat + c.toNat) })

/-- `DAA`: the adjusted accumulator and F, total in (A, C, H, N); N unchanged (R134). -/
def daa (f : Flags) (a : Byte) : Byte × Flags :=
  let low := f.h || decide (a.toNat % 16 > 9)
  let high := f.c || decide (a.toNat > 0x99)
  let t : Byte := (bif low then 0x06 else 0x00) ||| (bif high then 0x60 else 0x00)
  let r := bif f.n then a - t else a + t
  let h := bif f.n then f.h && decide (a.toNat % 16 < 6) else decide (a.toNat % 16 > 9)
  (r, { s := r.getLsbD 7, z := r == 0, y := r.getLsbD 5, h := h, x := r.getLsbD 3, pv := parity r, n := f.n, c := high })

/-- The rotates and shifts of 42_rotate_bit.md rules R155 to R162. -/
inductive Rotation where
  | rlc | rrc | rl | rr | sla | sra | sll | srl
  deriving DecidableEq, Repr

/-- The result of a rotate or shift and the carry it leaves, from the operand and the prior carry (R155 to R162). -/
def rotate (kind : Rotation) (v : Byte) (carry : Bool) : Byte × Bool :=
  let top := v.getLsbD 7
  let bottom := v.getLsbD 0
  let bit0 (b : Bool) : Byte := bif b then 0x01 else 0x00
  let bit7 (b : Bool) : Byte := bif b then 0x80 else 0x00
  match kind with
  | .rlc => ((v <<< 1) ||| bit0 top, top)
  | .rrc => ((v >>> 1) ||| bit7 bottom, bottom)
  | .rl => ((v <<< 1) ||| bit0 carry, top)
  | .rr => ((v >>> 1) ||| bit7 carry, bottom)
  | .sla => (v <<< 1, top)
  | .sra => ((v >>> 1) ||| bit7 top, bottom)
  | .sll => ((v <<< 1) ||| 0x01, top)
  | .srl => (v >>> 1, bottom)

/-- The flags of a `CB`-map rotate or shift: `SZP(r)`, H = N = 0, `XY(r)`, and the carry (R154). -/
def rotateFlags (r : Byte) (carry : Bool) : Flags :=
  { s := r.getLsbD 7, z := r == 0, y := r.getLsbD 5, h := false, x := r.getLsbD 3, pv := parity r, n := false, c := carry }

/-- The flags of an accumulator rotate; S, Z, PV unchanged (R150 to R153). -/
def rotateAFlags (f : Flags) (r : Byte) (carry : Bool) : Flags :=
  { f with y := r.getLsbD 5, h := false, x := r.getLsbD 3, n := false, c := carry }

/-- The flags of `BIT b`, Y and X taken from `xy`; C unchanged (R163). -/
def bitFlags (f : Flags) (b : Fin 8) (v xy : Byte) : Flags :=
  let t := v.getLsbD b.val
  { s := b == 7 && t
    z := !t
    y := xy.getLsbD 5
    h := true
    x := xy.getLsbD 3
    pv := !t
    n := false
    c := f.c }

/-- The flags of a value read in or moved to A: `SZP(v)`, H = N = 0, `XY(v)`; C unchanged (R166, R167, R186). -/
def valueFlags (f : Flags) (v : Byte) : Flags :=
  { s := v.getLsbD 7, z := v == 0, y := v.getLsbD 5, h := false, x := v.getLsbD 3, pv := parity v, n := false, c := f.c }

/-- The flags of `LD A,I` and `LD A,R`: PV is IFF2; C unchanged (45_system.md rule R204). -/
def specialFlags (f : Flags) (v : Byte) (iff2 : Bool) : Flags :=
  { s := v.getLsbD 7, z := v == 0, y := v.getLsbD 5, h := false, x := v.getLsbD 3, pv := iff2, n := false, c := f.c }

/-- The flags of one block-transfer step, from A, the byte moved and BC after; S, Z, C unchanged (R107). -/
def ldBlockFlags (f : Flags) (a v : Byte) (bc : Word) : Flags :=
  let m := v + a
  { f with y := m.getLsbD 1, h := false, x := m.getLsbD 3, pv := bc != 0, n := false }

/-- The flags of one block-compare step, from A, the byte read and BC after; C unchanged (R145). -/
def cpBlockFlags (f : Flags) (a v : Byte) (bc : Word) : Flags :=
  let r := a - v
  let h := decide (a.toNat % 16 < v.toNat % 16)
  let m := r - (bif h then 1 else 0)
  { s := r.getLsbD 7, z := r == 0, y := m.getLsbD 1, h := h, x := m.getLsbD 3, pv := bc != 0, n := true, c := f.c }

/-- `blockioFlags(v, k)`: the byte transferred, B after the decrement, and k (44_io.md rule R184). -/
def ioBlockFlags (v b : Byte) (k : Nat) : Flags :=
  { s := b.getLsbD 7
    z := b == 0
    y := b.getLsbD 5
    h := decide (k > 255)
    x := b.getLsbD 3
    pv := parity (BitVec.ofNat 8 (k % 256 % 8) ^^^ b)
    n := v.getLsbD 7
    c := decide (k > 255) }

end Sys2Proof.Machine
end

