-- ==== Sys2Proof/Machine/Load.lean ====
section
/-!
DEFINITION. Loads, stores, exchanges, the stack and block transfer (40_load_exchange.md rules R74 to R111). A meaning
runs on the state its fetch left: PC is past the instruction.
-/

namespace Sys2Proof.Machine

/-! ### 8-bit loads -/

/-- R74. -/
def execLdRR (y z : Reg8) (s : State) : Host.Outcome State Fault Refusal := .next (s.setReg y (s.reg z))

/-- R75. -/
def execLdRN (r : Reg8) (n : Byte) (s : State) : Host.Outcome State Fault Refusal := .next (s.setReg r n)

/-- R76. -/
def execLdRHlMem (y : Reg8) (s : State) : Host.Outcome State Fault Refusal :=
  let v := s.memRead s.hl
  .next (v.2.setReg y v.1)

/-- R77. -/
def execLdRIdxMem (y : Reg8) (i : Idx) (d : Byte) (s : State) : Host.Outcome State Fault Refusal :=
  let v := s.memRead (s.indexed i d)
  .next (v.2.setReg y v.1)

/-- R78. -/
def execLdHlMemR (z : Reg8) (s : State) : Host.Outcome State Fault Refusal := .next (s.memWrite s.hl (s.reg z))

/-- R79. -/
def execLdIdxMemR (i : Idx) (d : Byte) (z : Reg8) (s : State) : Host.Outcome State Fault Refusal :=
  .next (s.memWrite (s.indexed i d) (s.reg z))

/-- R80. -/
def execLdHlMemN (n : Byte) (s : State) : Host.Outcome State Fault Refusal := .next (s.memWrite s.hl n)

/-- R81. -/
def execLdIdxMemN (i : Idx) (d n : Byte) (s : State) : Host.Outcome State Fault Refusal :=
  .next (s.memWrite (s.indexed i d) n)

/-- R82. -/
def execLdARpMem (p : BcDe) (s : State) : Host.Outcome State Fault Refusal :=
  let v := s.memRead (s.bcDe p)
  .next (v.2.setA v.1)

/-- R83. -/
def execLdRpMemA (p : BcDe) (s : State) : Host.Outcome State Fault Refusal := .next (s.memWrite (s.bcDe p) s.regs.a)

/-- R84. -/
def execLdANnMem (nn : Word) (s : State) : Host.Outcome State Fault Refusal :=
  let v := s.memRead nn
  .next (v.2.setA v.1)

/-- R85. -/
def execLdNnMemA (nn : Word) (s : State) : Host.Outcome State Fault Refusal := .next (s.memWrite nn s.regs.a)

/-- R86. -/
def execLdXX (i : Idx) (y z : RegX) (s : State) : Host.Outcome State Fault Refusal :=
  s.undocumented (.ldXX i y z) (s.setRegX i y (s.regX i z))

/-- R87. -/
def execLdHalfN (i : Idx) (h : Half) (n : Byte) (s : State) : Host.Outcome State Fault Refusal :=
  s.undocumented (.ldHalfN i h n) (s.setHalf i h n)

/-! ### 16-bit loads -/

/-- R88. -/
def execLdRpNn (p : Rp) (nn : Word) (s : State) : Host.Outcome State Fault Refusal := .next (s.setPair p nn)

/-- R89. -/
def execLdIdxNn (i : Idx) (nn : Word) (s : State) : Host.Outcome State Fault Refusal := .next (s.setIdx i nn)

/-- A pair loaded from memory at `nn`, `nn+1` (R90, R91). -/
def State.loadPair (p : Rp) (nn : Word) (s : State) : State :=
  let v := s.memRead16 nn
  v.2.setPair p v.1

/-- R90. -/
def execLdHlNnMem (nn : Word) (s : State) : Host.Outcome State Fault Refusal := .next (s.loadPair .hl nn)

/-- R90, the duplicate `ED 6B`. -/
def execLdHlNnMemEd (nn : Word) (s : State) : Host.Outcome State Fault Refusal :=
  s.undocumented (.ldHlNnMemEd nn) (s.loadPair .hl nn)

/-- R91. -/
def execLdRpNnMem (p : Rp) (nn : Word) (s : State) : Host.Outcome State Fault Refusal := .next (s.loadPair p nn)

/-- R92. -/
def execLdIdxNnMem (i : Idx) (nn : Word) (s : State) : Host.Outcome State Fault Refusal :=
  let v := s.memRead16 nn
  .next (v.2.setIdx i v.1)

/-- R93. -/
def execLdNnMemHl (nn : Word) (s : State) : Host.Outcome State Fault Refusal := .next (s.memWrite16 nn s.hl)

/-- R93, the duplicate `ED 63`. -/
def execLdNnMemHlEd (nn : Word) (s : State) : Host.Outcome State Fault Refusal :=
  s.undocumented (.ldNnMemHlEd nn) (s.memWrite16 nn s.hl)

/-- R94. -/
def execLdNnMemRp (p : Rp) (nn : Word) (s : State) : Host.Outcome State Fault Refusal :=
  .next (s.memWrite16 nn (s.pair p))

/-- R95. -/
def execLdNnMemIdx (i : Idx) (nn : Word) (s : State) : Host.Outcome State Fault Refusal :=
  .next (s.memWrite16 nn (s.idx i))

/-- R96. -/
def execLdSpHl (s : State) : Host.Outcome State Fault Refusal := .next (s.setSp s.hl)

/-- R97. -/
def execLdSpIdx (i : Idx) (s : State) : Host.Outcome State Fault Refusal := .next (s.setSp (s.idx i))

/-! ### Stack -/

/-- R98. -/
def execPushRp2 (p : Rp2) (s : State) : Host.Outcome State Fault Refusal := .next (s.push16 (s.pair2 p))

/-- R99. -/
def execPushIdx (i : Idx) (s : State) : Host.Outcome State Fault Refusal := .next (s.push16 (s.idx i))

/-- R100. -/
def execPopRp2 (p : Rp2) (s : State) : Host.Outcome State Fault Refusal :=
  let v := s.pop16
  .next (v.2.setPair2 p v.1)

/-- R101. -/
def execPopIdx (i : Idx) (s : State) : Host.Outcome State Fault Refusal :=
  let v := s.pop16
  .next (v.2.setIdx i v.1)

/-! ### Exchanges -/

/-- R102. -/
def execExDeHl (s : State) : Host.Outcome State Fault Refusal :=
  .next { s with regs := { s.regs with d := s.regs.h, e := s.regs.l, h := s.regs.d, l := s.regs.e } }

/-- R103. -/
def execExAfAf (s : State) : Host.Outcome State Fault Refusal :=
  .next { s with
    regs := { s.regs with a := s.alt.a, f := s.alt.f }
    alt := { s.alt with a := s.regs.a, f := s.regs.f } }

/-- R104. -/
def execExx (s : State) : Host.Outcome State Fault Refusal :=
  .next { s with
    regs := { s.alt with a := s.regs.a, f := s.regs.f }
    alt := { s.regs with a := s.alt.a, f := s.alt.f } }

/-- `EX (SP)` of a 16-bit value: what was at SP, and the state after R(SP), R(SP+1), W(SP+1), W(SP) (R105, 20 R38). -/
def State.exchangeTop (v : Word) (s : State) : Word × State :=
  let old := s.memRead16 s.sp
  (old.1, (old.2.memWrite (s.sp + 1) (hiByte v)).memWrite s.sp (loByte v))

/-- R105. -/
def execExSpHl (s : State) : Host.Outcome State Fault Refusal :=
  let v := s.exchangeTop s.hl
  .next (v.2.setHl v.1)

/-- R106. -/
def execExSpIdx (i : Idx) (s : State) : Host.Outcome State Fault Refusal :=
  let v := s.exchangeTop (s.idx i)
  .next (v.2.setIdx i v.1)

/-! ### Block transfer -/

/-- `PC <- PC - 2` when a block instruction repeats: it executes again (R110). -/
def State.repeatIf (again : Bool) (s : State) : State := if again then s.setPc (s.pc - 2) else s

/-- `ldstep(delta)` and, in a repeating form, the repeat (R107, R110, R111). -/
def State.ldStep (delta : Word) (repeats : Bool) (s : State) : State :=
  let v := s.memRead s.hl
  let s1 := v.2.memWrite s.de v.1
  let s2 := ((s1.setHl (s1.hl + delta)).setDe (s1.de + delta)).setBc (s1.bc - 1)
  let again := repeats && s2.bc != 0
  (s2.putFlags (bif again then Flags.maskXY else Flags.none) Flags.maskXY
    (ldBlockFlags s2.regs.f s2.regs.a v.1 s2.bc)).repeatIf again

/-- R108. -/
def execLdi (s : State) : Host.Outcome State Fault Refusal := .next (s.ldStep 1 false)

/-- R109. -/
def execLdd (s : State) : Host.Outcome State Fault Refusal := .next (s.ldStep (-1) false)

/-- R110. -/
def execLdir (s : State) : Host.Outcome State Fault Refusal := .next (s.ldStep 1 true)

/-- R111. -/
def execLddr (s : State) : Host.Outcome State Fault Refusal := .next (s.ldStep (-1) true)

end Sys2Proof.Machine
end

