-- ==== Sys2Proof/Machine/Arith.lean ====
section
/-!
DEFINITION. 8- and 16-bit arithmetic and logic, the accumulator and flag operations, and block compare
(41_arith_logic.md rules R123 to R149).
-/

namespace Sys2Proof.Machine

/-! ### What each operation does to A and F, its second operand given (R124 to R131) -/

/-- `A <- add8(A, v, 0)` (R124). -/
def State.aluAdd (v : Byte) (s : State) : State :=
  let r := add8 s.regs.a v false
  (s.putXY r.2).setA r.1

/-- `A <- add8(A, v, F.C)` (R125). -/
def State.aluAdc (v : Byte) (s : State) : State :=
  let r := add8 s.regs.a v s.regs.f.c
  (s.putXY r.2).setA r.1

/-- `A <- sub8(A, v, 0)` (R126). -/
def State.aluSub (v : Byte) (s : State) : State :=
  let r := sub8 s.regs.a v false
  (s.putXY r.2).setA r.1

/-- `A <- sub8(A, v, F.C)` (R127). -/
def State.aluSbc (v : Byte) (s : State) : State :=
  let r := sub8 s.regs.a v s.regs.f.c
  (s.putXY r.2).setA r.1

/-- `r <- A & v; A <- r; logic(r, 1)` (R128). -/
def State.aluAnd (v : Byte) (s : State) : State :=
  let r := s.regs.a &&& v
  (s.putXY (logicFlags r true)).setA r

/-- `r <- A ^ v; A <- r; logic(r, 0)` (R129). -/
def State.aluXor (v : Byte) (s : State) : State :=
  let r := s.regs.a ^^^ v
  (s.putXY (logicFlags r false)).setA r

/-- `r <- A | v; A <- r; logic(r, 0)` (R130). -/
def State.aluOr (v : Byte) (s : State) : State :=
  let r := s.regs.a ||| v
  (s.putXY (logicFlags r false)).setA r

/-- `sub8(A, v, 0)` with A unchanged, Y and X from the operand (R131). -/
def State.aluCp (v : Byte) (s : State) : State := s.putXY ((sub8 s.regs.a v false).2.withXY v)

/-! ### The operand forms (R123) -/

/-- R124, `r8[z]` and `(HL)`. -/
def execAddAR8 (o : Opnd8) (s : State) : Host.Outcome State Fault Refusal :=
  let v := s.readOpnd o
  .next (v.2.aluAdd v.1)

/-- R124, immediate. -/
def execAddAN (n : Byte) (s : State) : Host.Outcome State Fault Refusal := .next (s.aluAdd n)

/-- R124, `(idx+d)`. -/
def execAddAIdxMem (i : Idx) (d : Byte) (s : State) : Host.Outcome State Fault Refusal :=
  let v := s.memRead (s.indexed i d)
  .next (v.2.aluAdd v.1)

/-- R124, `idxH` and `idxL`. -/
def execAddAHalf (i : Idx) (h : Half) (s : State) : Host.Outcome State Fault Refusal :=
  s.undocumented (.addAHalf i h) (s.aluAdd (s.half i h))

/-- R125, `r8[z]` and `(HL)`. -/
def execAdcAR8 (o : Opnd8) (s : State) : Host.Outcome State Fault Refusal :=
  let v := s.readOpnd o
  .next (v.2.aluAdc v.1)

/-- R125, immediate. -/
def execAdcAN (n : Byte) (s : State) : Host.Outcome State Fault Refusal := .next (s.aluAdc n)

/-- R125, `(idx+d)`. -/
def execAdcAIdxMem (i : Idx) (d : Byte) (s : State) : Host.Outcome State Fault Refusal :=
  let v := s.memRead (s.indexed i d)
  .next (v.2.aluAdc v.1)

/-- R125, `idxH` and `idxL`. -/
def execAdcAHalf (i : Idx) (h : Half) (s : State) : Host.Outcome State Fault Refusal :=
  s.undocumented (.adcAHalf i h) (s.aluAdc (s.half i h))

/-- R126, `r8[z]` and `(HL)`. -/
def execSubR8 (o : Opnd8) (s : State) : Host.Outcome State Fault Refusal :=
  let v := s.readOpnd o
  .next (v.2.aluSub v.1)

/-- R126, immediate. -/
def execSubN (n : Byte) (s : State) : Host.Outcome State Fault Refusal := .next (s.aluSub n)

/-- R126, `(idx+d)`. -/
def execSubIdxMem (i : Idx) (d : Byte) (s : State) : Host.Outcome State Fault Refusal :=
  let v := s.memRead (s.indexed i d)
  .next (v.2.aluSub v.1)

/-- R126, `idxH` and `idxL`. -/
def execSubHalf (i : Idx) (h : Half) (s : State) : Host.Outcome State Fault Refusal :=
  s.undocumented (.subHalf i h) (s.aluSub (s.half i h))

/-- R127, `r8[z]` and `(HL)`. -/
def execSbcAR8 (o : Opnd8) (s : State) : Host.Outcome State Fault Refusal :=
  let v := s.readOpnd o
  .next (v.2.aluSbc v.1)

/-- R127, immediate. -/
def execSbcAN (n : Byte) (s : State) : Host.Outcome State Fault Refusal := .next (s.aluSbc n)

/-- R127, `(idx+d)`. -/
def execSbcAIdxMem (i : Idx) (d : Byte) (s : State) : Host.Outcome State Fault Refusal :=
  let v := s.memRead (s.indexed i d)
  .next (v.2.aluSbc v.1)

/-- R127, `idxH` and `idxL`. -/
def execSbcAHalf (i : Idx) (h : Half) (s : State) : Host.Outcome State Fault Refusal :=
  s.undocumented (.sbcAHalf i h) (s.aluSbc (s.half i h))

/-- R128, `r8[z]` and `(HL)`. -/
def execAndR8 (o : Opnd8) (s : State) : Host.Outcome State Fault Refusal :=
  let v := s.readOpnd o
  .next (v.2.aluAnd v.1)

/-- R128, immediate. -/
def execAndN (n : Byte) (s : State) : Host.Outcome State Fault Refusal := .next (s.aluAnd n)

/-- R128, `(idx+d)`. -/
def execAndIdxMem (i : Idx) (d : Byte) (s : State) : Host.Outcome State Fault Refusal :=
  let v := s.memRead (s.indexed i d)
  .next (v.2.aluAnd v.1)

/-- R128, `idxH` and `idxL`. -/
def execAndHalf (i : Idx) (h : Half) (s : State) : Host.Outcome State Fault Refusal :=
  s.undocumented (.andHalf i h) (s.aluAnd (s.half i h))

/-- R129, `r8[z]` and `(HL)`. -/
def execXorR8 (o : Opnd8) (s : State) : Host.Outcome State Fault Refusal :=
  let v := s.readOpnd o
  .next (v.2.aluXor v.1)

/-- R129, immediate. -/
def execXorN (n : Byte) (s : State) : Host.Outcome State Fault Refusal := .next (s.aluXor n)

/-- R129, `(idx+d)`. -/
def execXorIdxMem (i : Idx) (d : Byte) (s : State) : Host.Outcome State Fault Refusal :=
  let v := s.memRead (s.indexed i d)
  .next (v.2.aluXor v.1)

/-- R129, `idxH` and `idxL`. -/
def execXorHalf (i : Idx) (h : Half) (s : State) : Host.Outcome State Fault Refusal :=
  s.undocumented (.xorHalf i h) (s.aluXor (s.half i h))

/-- R130, `r8[z]` and `(HL)`. -/
def execOrR8 (o : Opnd8) (s : State) : Host.Outcome State Fault Refusal :=
  let v := s.readOpnd o
  .next (v.2.aluOr v.1)

/-- R130, immediate. -/
def execOrN (n : Byte) (s : State) : Host.Outcome State Fault Refusal := .next (s.aluOr n)

/-- R130, `(idx+d)`. -/
def execOrIdxMem (i : Idx) (d : Byte) (s : State) : Host.Outcome State Fault Refusal :=
  let v := s.memRead (s.indexed i d)
  .next (v.2.aluOr v.1)

/-- R130, `idxH` and `idxL`. -/
def execOrHalf (i : Idx) (h : Half) (s : State) : Host.Outcome State Fault Refusal :=
  s.undocumented (.orHalf i h) (s.aluOr (s.half i h))

/-- R131, `r8[z]` and `(HL)`. -/
def execCpR8 (o : Opnd8) (s : State) : Host.Outcome State Fault Refusal :=
  let v := s.readOpnd o
  .next (v.2.aluCp v.1)

/-- R131, immediate. -/
def execCpN (n : Byte) (s : State) : Host.Outcome State Fault Refusal := .next (s.aluCp n)

/-- R131, `(idx+d)`. -/
def execCpIdxMem (i : Idx) (d : Byte) (s : State) : Host.Outcome State Fault Refusal :=
  let v := s.memRead (s.indexed i d)
  .next (v.2.aluCp v.1)

/-- R131, `idxH` and `idxL`. -/
def execCpHalf (i : Idx) (h : Half) (s : State) : Host.Outcome State Fault Refusal :=
  s.undocumented (.cpHalf i h) (s.aluCp (s.half i h))

/-! ### 8-bit increment and decrement (R132, R133) -/

/-- Reads the byte at an address, then writes back what the flag function makes of it (R132: one read, one write). -/
def State.modifyMem (change : Flags → Byte → Byte × Flags) (a : Word) (s : State) : State :=
  let v := s.memRead a
  let r := change v.2.regs.f v.1
  (v.2.memWrite a r.1).putXY r.2

/-- The same for `r8[y]`. -/
def State.modifyOpnd (change : Flags → Byte → Byte × Flags) (o : Opnd8) (s : State) : State :=
  match o with
  | .reg g =>
    let r := change s.regs.f (s.reg g)
    (s.setReg g r.1).putXY r.2
  | .hlMem => s.modifyMem change s.hl

/-- The same for a half of the index register. -/
def State.modifyHalf (change : Flags → Byte → Byte × Flags) (i : Idx) (h : Half) (s : State) : State :=
  let r := change s.regs.f (s.half i h)
  (s.setHalf i h r.1).putXY r.2

/-- R132. -/
def execIncR8 (o : Opnd8) (s : State) : Host.Outcome State Fault Refusal := .next (s.modifyOpnd inc8 o)

/-- R133. -/
def execDecR8 (o : Opnd8) (s : State) : Host.Outcome State Fault Refusal := .next (s.modifyOpnd dec8 o)

/-- R132, `(idx+d)`. -/
def execIncIdxMem (i : Idx) (d : Byte) (s : State) : Host.Outcome State Fault Refusal :=
  .next (s.modifyMem inc8 (s.indexed i d))

/-- R133, `(idx+d)`. -/
def execDecIdxMem (i : Idx) (d : Byte) (s : State) : Host.Outcome State Fault Refusal :=
  .next (s.modifyMem dec8 (s.indexed i d))

/-- R132, `idxH` and `idxL`. -/
def execIncHalf (i : Idx) (h : Half) (s : State) : Host.Outcome State Fault Refusal :=
  s.undocumented (.incHalf i h) (s.modifyHalf inc8 i h)

/-- R133, `idxH` and `idxL`. -/
def execDecHalf (i : Idx) (h : Half) (s : State) : Host.Outcome State Fault Refusal :=
  s.undocumented (.decHalf i h) (s.modifyHalf dec8 i h)

/-! ### Accumulator and flag operations -/

/-- R134. -/
def execDaa (s : State) : Host.Outcome State Fault Refusal :=
  let r := daa s.regs.f s.regs.a
  .next ((s.putXY r.2).setA r.1)

/-- R135. -/
def execCpl (s : State) : Host.Outcome State Fault Refusal :=
  let r := ~~~s.regs.a
  .next ((s.putXY ({ s.regs.f with h := true, n := true }.withXY r)).setA r)

/-- `A <- sub8(0x00, A, 0)` (R136). -/
def State.negate (s : State) : State :=
  let r := sub8 0 s.regs.a false
  (s.putXY r.2).setA r.1

/-- R136. -/
def execNeg (s : State) : Host.Outcome State Fault Refusal := .next s.negate

/-- R136, the duplicates. -/
def execNegDup (y : Fin 8) (s : State) : Host.Outcome State Fault Refusal := s.undocumented (.negDup y) s.negate

/-- R137: Y and X are draws under both settings. -/
def execScf (s : State) : Host.Outcome State Fault Refusal :=
  .next (s.putFlags Flags.maskXY Flags.none { s.regs.f with c := true, h := false, n := false })

/-- R138: Y and X are draws under both settings. -/
def execCcf (s : State) : Host.Outcome State Fault Refusal :=
  .next (s.putFlags Flags.maskXY Flags.none { s.regs.f with h := s.regs.f.c, c := !s.regs.f.c, n := false })

/-! ### 16-bit arithmetic -/

/-- R139. -/
def execAddHlRp (p : Rp) (s : State) : Host.Outcome State Fault Refusal :=
  let r := add16 s.regs.f s.hl (s.pair p)
  .next ((s.putXY r.2).setHl r.1)

/-- R140. -/
def execAddIdxRp (i : Idx) (p : RpIdx) (s : State) : Host.Outcome State Fault Refusal :=
  let r := add16 s.regs.f (s.idx i) (s.pairIdx i p)
  .next ((s.putXY r.2).setIdx i r.1)

/-- R141. -/
def execAdcHlRp (p : Rp) (s : State) : Host.Outcome State Fault Refusal :=
  let r := adc16 s.hl (s.pair p) s.regs.f.c
  .next ((s.putXY r.2).setHl r.1)

/-- R142. -/
def execSbcHlRp (p : Rp) (s : State) : Host.Outcome State Fault Refusal :=
  let r := sbc16 s.hl (s.pair p) s.regs.f.c
  .next ((s.putXY r.2).setHl r.1)

/-- R143. -/
def execIncRp (p : Rp) (s : State) : Host.Outcome State Fault Refusal := .next (s.setPair p (s.pair p + 1))

/-- R143, IX and IY. -/
def execIncIdx (i : Idx) (s : State) : Host.Outcome State Fault Refusal := .next (s.setIdx i (s.idx i + 1))

/-- R144. -/
def execDecRp (p : Rp) (s : State) : Host.Outcome State Fault Refusal := .next (s.setPair p (s.pair p - 1))

/-- R144, IX and IY. -/
def execDecIdx (i : Idx) (s : State) : Host.Outcome State Fault Refusal := .next (s.setIdx i (s.idx i - 1))

/-! ### Block compare -/

/-- `cpstep(delta)` and, in a repeating form, the repeat while no match is found (R145, R148, R149). -/
def State.cpStep (delta : Word) (repeats : Bool) (s : State) : State :=
  let v := s.memRead s.hl
  let s1 := (v.2.setHl (v.2.hl + delta)).setBc (v.2.bc - 1)
  let f := cpBlockFlags s1.regs.f s1.regs.a v.1 s1.bc
  let again := repeats && s1.bc != 0 && !f.z
  (s1.putFlags (bif again then Flags.maskXY else Flags.none) Flags.maskXY f).repeatIf again

/-- R146. -/
def execCpi (s : State) : Host.Outcome State Fault Refusal := .next (s.cpStep 1 false)

/-- R147. -/
def execCpd (s : State) : Host.Outcome State Fault Refusal := .next (s.cpStep (-1) false)

/-- R148. -/
def execCpir (s : State) : Host.Outcome State Fault Refusal := .next (s.cpStep 1 true)

/-- R149. -/
def execCpdr (s : State) : Host.Outcome State Fault Refusal := .next (s.cpStep (-1) true)

end Sys2Proof.Machine
end

