-- ==== Sys2Proof/Machine/Control.lean ====
section
/-!
DEFINITION. Jumps, calls, returns and restarts (43_control.md rules R168 to R181). PC is already past the instruction.
-/

namespace Sys2Proof.Machine

/-- R168. -/
def execJpNn (nn : Word) (s : State) : Host.Outcome State Fault Refusal := .next (s.setPc nn)

/-- R169. -/
def execJpCcNn (cc : Cond) (nn : Word) (s : State) : Host.Outcome State Fault Refusal :=
  .next (if s.cond cc then s.setPc nn else s)

/-- R170. -/
def execJr (e : Byte) (s : State) : Host.Outcome State Fault Refusal := .next (s.jumpRelative e)

/-- R171. -/
def execJrCc (cc : JrCond) (e : Byte) (s : State) : Host.Outcome State Fault Refusal :=
  .next (if s.cond (jrCondition cc) then s.jumpRelative e else s)

/-- R172. -/
def execDjnz (e : Byte) (s : State) : Host.Outcome State Fault Refusal :=
  let s1 := s.setReg .b (s.regs.b - 1)
  .next (if s1.regs.b = 0 then s1 else s1.jumpRelative e)

/-- R173. -/
def execJpHl (s : State) : Host.Outcome State Fault Refusal := .next (s.setPc s.hl)

/-- R174. -/
def execJpIdx (i : Idx) (s : State) : Host.Outcome State Fault Refusal := .next (s.setPc (s.idx i))

/-- `push16(PC); PC <- target` (R175, R181). -/
def State.call (target : Word) (s : State) : State := (s.push16 s.pc).setPc target

/-- R175. -/
def execCallNn (nn : Word) (s : State) : Host.Outcome State Fault Refusal := .next (s.call nn)

/-- R176. -/
def execCallCcNn (cc : Cond) (nn : Word) (s : State) : Host.Outcome State Fault Refusal :=
  .next (if s.cond cc then s.call nn else s)

/-- `PC <- pop16()` (R177). -/
def State.popPc (s : State) : State :=
  let v := s.pop16
  v.2.setPc v.1

/-- R177. -/
def execRet (s : State) : Host.Outcome State Fault Refusal := .next s.popPc

/-- R178. -/
def execRetCc (cc : Cond) (s : State) : Host.Outcome State Fault Refusal :=
  .next (if s.cond cc then s.popPc else s)

/-- R179. -/
def execRetn (s : State) : Host.Outcome State Fault Refusal := .next s.returnFromInterrupt

/-- R179, the duplicates. -/
def execRetnDup (y : Fin 8) (s : State) : Host.Outcome State Fault Refusal :=
  s.undocumented (.retnDup y) s.returnFromInterrupt

/-- R180. -/
def execReti (s : State) : Host.Outcome State Fault Refusal := .next s.returnFromInterrupt

/-- R181: the target is `zext_16(y * 8)`. -/
def execRst (y : Fin 8) (s : State) : Host.Outcome State Fault Refusal := .next (s.call (BitVec.ofNat 16 (y.val * 8)))

end Sys2Proof.Machine
end

