-- ==== Sys2Proof/Machine/Io.lean ====
section
/-!
DEFINITION. Input and output (44_io.md rules R183 to R198). A port number is 16 bits: A and n, or BC (rule R183).
-/

namespace Sys2Proof.Machine

/-! ### Single transfers -/

/-- R185: the port's high byte is A before the read. -/
def execInAN (n : Byte) (s : State) : Host.Outcome State Fault Refusal :=
  let v := s.ioRead (joinBytes s.regs.a n)
  .next (v.2.setA v.1)

/-- A byte read from port BC, with F written from it (R186, R187). -/
def State.inC (s : State) : Byte × State :=
  let v := s.ioRead s.bc
  (v.1, v.2.putXY (valueFlags v.2.regs.f v.1))

/-- R186. -/
def execInRC (y : Reg8) (s : State) : Host.Outcome State Fault Refusal :=
  let v := s.inC
  .next (v.2.setReg y v.1)

/-- R187: only the flags record the byte. -/
def execInFC (s : State) : Host.Outcome State Fault Refusal := s.undocumented .inFC s.inC.2

/-- R188. -/
def execOutNA (n : Byte) (s : State) : Host.Outcome State Fault Refusal :=
  .next (s.ioWrite (joinBytes s.regs.a n) s.regs.a)

/-- R189. -/
def execOutCR (y : Reg8) (s : State) : Host.Outcome State Fault Refusal := .next (s.ioWrite s.bc (s.reg y))

/-- R190. -/
def execOutC0 (s : State) : Host.Outcome State Fault Refusal := s.undocumented .outC0 (s.ioWrite s.bc 0x00)

/-! ### Block transfers -/

/-- `blockioFlags(v, k)`, and the repeat of a repeating form while B is not 0, with its draws (R184, R193). -/
def State.ioBlockEnd (v : Byte) (k : Nat) (repeats : Bool) (s : State) : State :=
  let again := repeats && s.regs.b != 0
  (s.putFlags (bif again then Flags.maskRepeatIo else Flags.none) Flags.maskBlockIo
    (ioBlockFlags v s.regs.b k)).repeatIf again

/-- One input step: `delta` moves HL, and C + `deltaC` enters k; the port has B before the decrement (R191, R192). -/
def State.inStep (delta : Word) (deltaC : Byte) (repeats : Bool) (s : State) : State :=
  let v := s.ioRead s.bc
  let s1 := v.2.memWrite s.hl v.1
  let s2 := (s1.setReg .b (s1.regs.b - 1)).setHl (s1.hl + delta)
  s2.ioBlockEnd v.1 (v.1.toNat + (s2.regs.c + deltaC).toNat) repeats

/-- One output step: `delta` moves HL, whose new low byte enters k; the port has B after the decrement (R195, R196). -/
def State.outStep (delta : Word) (repeats : Bool) (s : State) : State :=
  let v := s.memRead s.hl
  let s1 := v.2.setReg .b (v.2.regs.b - 1)
  let s2 := s1.ioWrite s1.bc v.1
  let s3 := s2.setHl (s2.hl + delta)
  s3.ioBlockEnd v.1 (v.1.toNat + s3.regs.l.toNat) repeats

/-- R191. -/
def execIni (s : State) : Host.Outcome State Fault Refusal := .next (s.inStep 1 1 false)

/-- R192. -/
def execInd (s : State) : Host.Outcome State Fault Refusal := .next (s.inStep (-1) (-1) false)

/-- R193. -/
def execInir (s : State) : Host.Outcome State Fault Refusal := .next (s.inStep 1 1 true)

/-- R194. -/
def execIndr (s : State) : Host.Outcome State Fault Refusal := .next (s.inStep (-1) (-1) true)

/-- R195. -/
def execOuti (s : State) : Host.Outcome State Fault Refusal := .next (s.outStep 1 false)

/-- R196. -/
def execOutd (s : State) : Host.Outcome State Fault Refusal := .next (s.outStep (-1) false)

/-- R197. -/
def execOtir (s : State) : Host.Outcome State Fault Refusal := .next (s.outStep 1 true)

/-- R198. -/
def execOtdr (s : State) : Host.Outcome State Fault Refusal := .next (s.outStep (-1) true)

end Sys2Proof.Machine
end

