-- ==== Sys2Proof/Machine/Rotate.lean ====
section
/-!
DEFINITION. Rotates, shifts, bit test, reset and set, and the digit rotates (42_rotate_bit.md rules R150 to R167).
-/

namespace Sys2Proof.Machine

/-! ### Accumulator rotates -/

/-- A rotated, with the flags of the accumulator forms (R150 to R153). -/
def State.rotateA (kind : Rotation) (s : State) : State :=
  let r := rotate kind s.regs.a s.regs.f.c
  (s.putXY (rotateAFlags s.regs.f r.1 r.2)).setA r.1

/-- R150. -/
def execRlca (s : State) : Host.Outcome State Fault Refusal := .next (s.rotateA .rlc)

/-- R151. -/
def execRrca (s : State) : Host.Outcome State Fault Refusal := .next (s.rotateA .rrc)

/-- R152. -/
def execRla (s : State) : Host.Outcome State Fault Refusal := .next (s.rotateA .rl)

/-- R153. -/
def execRra (s : State) : Host.Outcome State Fault Refusal := .next (s.rotateA .rr)

/-! ### The three operand forms (R154): read, then write back, then the register copy -/

/-- A rotate or shift of `r8[z]` or `(HL)`. -/
def State.rotateOpnd (kind : Rotation) (o : Opnd8) (s : State) : State :=
  let v := s.readOpnd o
  let r := rotate kind v.1 v.2.regs.f.c
  (v.2.writeOpnd o r.1).putXY (rotateFlags r.1 r.2)

/-- A rotate or shift of the byte at an address: the result, and the state after the write and the flags. -/
def State.rotateMem (kind : Rotation) (a : Word) (s : State) : Byte × State :=
  let v := s.memRead a
  let r := rotate kind v.1 v.2.regs.f.c
  (r.1, (v.2.memWrite a r.1).putXY (rotateFlags r.1 r.2))

/-- The undocumented form: the result is also written to `r8[z]`. -/
def State.rotateMemCopy (kind : Rotation) (a : Word) (z : Reg8) (s : State) : State :=
  let r := s.rotateMem kind a
  r.2.setReg z r.1

/-- The byte at an address changed with no flag (R164, R165): the result, and the state after the write. -/
def State.changeMem (change : Byte → Byte) (a : Word) (s : State) : Byte × State :=
  let v := s.memRead a
  (change v.1, v.2.memWrite a (change v.1))

/-- The undocumented form: the result is also written to `r8[z]`. -/
def State.changeMemCopy (change : Byte → Byte) (a : Word) (z : Reg8) (s : State) : State :=
  let r := s.changeMem change a
  r.2.setReg z r.1

/-- `r8[z]` or `(HL)` changed with no flag. -/
def State.changeOpnd (change : Byte → Byte) (o : Opnd8) (s : State) : State :=
  let v := s.readOpnd o
  v.2.writeOpnd o (change v.1)

/-- R155. -/
def execRlcR8 (o : Opnd8) (s : State) : Host.Outcome State Fault Refusal := .next (s.rotateOpnd .rlc o)

/-- R155, `(idx+d)`. -/
def execRlcIdxMem (i : Idx) (d : Byte) (s : State) : Host.Outcome State Fault Refusal :=
  .next (s.rotateMem .rlc (s.indexed i d)).2

/-- R155, `(idx+d)` with the register copy. -/
def execRlcIdxCopy (i : Idx) (d : Byte) (z : Reg8) (s : State) : Host.Outcome State Fault Refusal :=
  s.undocumented (.rlcIdxCopy i d z) (s.rotateMemCopy .rlc (s.indexed i d) z)

/-- R156. -/
def execRrcR8 (o : Opnd8) (s : State) : Host.Outcome State Fault Refusal := .next (s.rotateOpnd .rrc o)

/-- R156, `(idx+d)`. -/
def execRrcIdxMem (i : Idx) (d : Byte) (s : State) : Host.Outcome State Fault Refusal :=
  .next (s.rotateMem .rrc (s.indexed i d)).2

/-- R156, `(idx+d)` with the register copy. -/
def execRrcIdxCopy (i : Idx) (d : Byte) (z : Reg8) (s : State) : Host.Outcome State Fault Refusal :=
  s.undocumented (.rrcIdxCopy i d z) (s.rotateMemCopy .rrc (s.indexed i d) z)

/-- R157. -/
def execRlR8 (o : Opnd8) (s : State) : Host.Outcome State Fault Refusal := .next (s.rotateOpnd .rl o)

/-- R157, `(idx+d)`. -/
def execRlIdxMem (i : Idx) (d : Byte) (s : State) : Host.Outcome State Fault Refusal :=
  .next (s.rotateMem .rl (s.indexed i d)).2

/-- R157, `(idx+d)` with the register copy. -/
def execRlIdxCopy (i : Idx) (d : Byte) (z : Reg8) (s : State) : Host.Outcome State Fault Refusal :=
  s.undocumented (.rlIdxCopy i d z) (s.rotateMemCopy .rl (s.indexed i d) z)

/-- R158. -/
def execRrR8 (o : Opnd8) (s : State) : Host.Outcome State Fault Refusal := .next (s.rotateOpnd .rr o)

/-- R158, `(idx+d)`. -/
def execRrIdxMem (i : Idx) (d : Byte) (s : State) : Host.Outcome State Fault Refusal :=
  .next (s.rotateMem .rr (s.indexed i d)).2

/-- R158, `(idx+d)` with the register copy. -/
def execRrIdxCopy (i : Idx) (d : Byte) (z : Reg8) (s : State) : Host.Outcome State Fault Refusal :=
  s.undocumented (.rrIdxCopy i d z) (s.rotateMemCopy .rr (s.indexed i d) z)

/-- R159. -/
def execSlaR8 (o : Opnd8) (s : State) : Host.Outcome State Fault Refusal := .next (s.rotateOpnd .sla o)

/-- R159, `(idx+d)`. -/
def execSlaIdxMem (i : Idx) (d : Byte) (s : State) : Host.Outcome State Fault Refusal :=
  .next (s.rotateMem .sla (s.indexed i d)).2

/-- R159, `(idx+d)` with the register copy. -/
def execSlaIdxCopy (i : Idx) (d : Byte) (z : Reg8) (s : State) : Host.Outcome State Fault Refusal :=
  s.undocumented (.slaIdxCopy i d z) (s.rotateMemCopy .sla (s.indexed i d) z)

/-- R160. -/
def execSraR8 (o : Opnd8) (s : State) : Host.Outcome State Fault Refusal := .next (s.rotateOpnd .sra o)

/-- R160, `(idx+d)`. -/
def execSraIdxMem (i : Idx) (d : Byte) (s : State) : Host.Outcome State Fault Refusal :=
  .next (s.rotateMem .sra (s.indexed i d)).2

/-- R160, `(idx+d)` with the register copy. -/
def execSraIdxCopy (i : Idx) (d : Byte) (z : Reg8) (s : State) : Host.Outcome State Fault Refusal :=
  s.undocumented (.sraIdxCopy i d z) (s.rotateMemCopy .sra (s.indexed i d) z)

/-- R161. -/
def execSllR8 (o : Opnd8) (s : State) : Host.Outcome State Fault Refusal :=
  s.undocumented (.sllR8 o) (s.rotateOpnd .sll o)

/-- R161, `(idx+d)`. -/
def execSllIdxMem (i : Idx) (d : Byte) (s : State) : Host.Outcome State Fault Refusal :=
  s.undocumented (.sllIdxMem i d) (s.rotateMem .sll (s.indexed i d)).2

/-- R161, `(idx+d)` with the register copy. -/
def execSllIdxCopy (i : Idx) (d : Byte) (z : Reg8) (s : State) : Host.Outcome State Fault Refusal :=
  s.undocumented (.sllIdxCopy i d z) (s.rotateMemCopy .sll (s.indexed i d) z)

/-- R162. -/
def execSrlR8 (o : Opnd8) (s : State) : Host.Outcome State Fault Refusal := .next (s.rotateOpnd .srl o)

/-- R162, `(idx+d)`. -/
def execSrlIdxMem (i : Idx) (d : Byte) (s : State) : Host.Outcome State Fault Refusal :=
  .next (s.rotateMem .srl (s.indexed i d)).2

/-- R162, `(idx+d)` with the register copy. -/
def execSrlIdxCopy (i : Idx) (d : Byte) (z : Reg8) (s : State) : Host.Outcome State Fault Refusal :=
  s.undocumented (.srlIdxCopy i d z) (s.rotateMemCopy .srl (s.indexed i d) z)

/-! ### Bit test, reset, set -/

/-- The flags of `BIT` written: `always` is what the form draws under either setting (R163). -/
def State.testBit (b : Fin 8) (v xy : Byte) (always : Flags) (s : State) : State :=
  s.putFlags always Flags.maskBit (bitFlags s.regs.f b v xy)

/-- R163: Y and X from the register, or draws for `(HL)`. -/
def execBitR8 (b : Fin 8) (o : Opnd8) (s : State) : Host.Outcome State Fault Refusal :=
  let v := s.readOpnd o
  match o with
  | .reg _ => .next (v.2.testBit b v.1 v.1 Flags.none)
  | .hlMem => .next (v.2.testBit b v.1 v.1 Flags.maskXY)

/-- `BIT b,(idx+d)`: Y and X from the high byte of EA (R163). -/
def State.testBitIdx (b : Fin 8) (i : Idx) (d : Byte) (s : State) : State :=
  let v := s.memRead (s.indexed i d)
  v.2.testBit b v.1 (hiByte (s.indexed i d)) Flags.none

/-- R163, `(idx+d)`. -/
def execBitIdxMem (b : Fin 8) (i : Idx) (d : Byte) (s : State) : Host.Outcome State Fault Refusal :=
  .next (s.testBitIdx b i d)

/-- R163, the duplicates with z ≠ 6: no register is written. -/
def execBitIdxDup (b : Fin 8) (i : Idx) (d : Byte) (z : Reg8) (s : State) : Host.Outcome State Fault Refusal :=
  s.undocumented (.bitIdxDup b i d z) (s.testBitIdx b i d)

/-- `v & ~(1 << b)` (R164). -/
def resetBit (b : Fin 8) (v : Byte) : Byte := v &&& ~~~((1 : Byte) <<< b.val)

/-- `v | (1 << b)` (R165). -/
def setBit (b : Fin 8) (v : Byte) : Byte := v ||| ((1 : Byte) <<< b.val)

/-- R164. -/
def execResR8 (b : Fin 8) (o : Opnd8) (s : State) : Host.Outcome State Fault Refusal :=
  .next (s.changeOpnd (resetBit b) o)

/-- R164, `(idx+d)`. -/
def execResIdxMem (b : Fin 8) (i : Idx) (d : Byte) (s : State) : Host.Outcome State Fault Refusal :=
  .next (s.changeMem (resetBit b) (s.indexed i d)).2

/-- R164, `(idx+d)` with the register copy. -/
def execResIdxCopy (b : Fin 8) (i : Idx) (d : Byte) (z : Reg8) (s : State) : Host.Outcome State Fault Refusal :=
  s.undocumented (.resIdxCopy b i d z) (s.changeMemCopy (resetBit b) (s.indexed i d) z)

/-- R165. -/
def execSetR8 (b : Fin 8) (o : Opnd8) (s : State) : Host.Outcome State Fault Refusal :=
  .next (s.changeOpnd (setBit b) o)

/-- R165, `(idx+d)`. -/
def execSetIdxMem (b : Fin 8) (i : Idx) (d : Byte) (s : State) : Host.Outcome State Fault Refusal :=
  .next (s.changeMem (setBit b) (s.indexed i d)).2

/-- R165, `(idx+d)` with the register copy. -/
def execSetIdxCopy (b : Fin 8) (i : Idx) (d : Byte) (z : Reg8) (s : State) : Host.Outcome State Fault Refusal :=
  s.undocumented (.setIdxCopy b i d z) (s.changeMemCopy (setBit b) (s.indexed i d) z)

/-! ### Digit rotates -/

/-- The byte at HL and A exchange digits: `mem` and `acc` give the new byte and the new A from A and the byte; flags
from the new A (R166, R167). -/
def State.rotateDigit (mem acc : Byte → Byte → Byte) (s : State) : State :=
  let v := s.memRead s.hl
  let a := acc s.regs.a v.1
  ((v.2.memWrite s.hl (mem s.regs.a v.1)).putXY (valueFlags s.regs.f a)).setA a

/-- R166. -/
def execRld (s : State) : Host.Outcome State Fault Refusal :=
  .next (s.rotateDigit (fun a v => (v <<< 4) ||| (a &&& 0x0F)) (fun a v => (a &&& 0xF0) ||| (v >>> 4)))

/-- R167. -/
def execRrd (s : State) : Host.Outcome State Fault Refusal :=
  .next (s.rotateDigit (fun a v => (a <<< 4) ||| (v >>> 4)) (fun a v => (a &&& 0xF0) ||| (v &&& 0x0F)))

end Sys2Proof.Machine
end

