-- ==== Sys2Proof/Machine/System.lean ====
section
/-!
DEFINITION. The interrupt controls, the special registers and the two fallbacks (45_system.md rules R199 to R207,
30_encoding.md rules R65, R66).
-/

namespace Sys2Proof.Machine

/-- R199. -/
def execNop (s : State) : Host.Outcome State Fault Refusal := .next s

/-- R200: back to the address of the `HALT` byte. -/
def execHalt (s : State) : Host.Outcome State Fault Refusal := .next { s with pc := s.pc - 1, halted := true }

/-- R201. -/
def execDi (s : State) : Host.Outcome State Fault Refusal := .next { s with iff1 := false, iff2 := false }

/-- R202. -/
def execEi (s : State) : Host.Outcome State Fault Refusal := .next { s with iff1 := true, iff2 := true }

/-- R203. -/
def execIm0 (s : State) : Host.Outcome State Fault Refusal := .next { s with im := .im0 }

/-- R203. -/
def execIm1 (s : State) : Host.Outcome State Fault Refusal := .next { s with im := .im1 }

/-- R203. -/
def execIm2 (s : State) : Host.Outcome State Fault Refusal := .next { s with im := .im2 }

/-- R203, `ED 66`. -/
def execIm0Dup (s : State) : Host.Outcome State Fault Refusal := s.undocumented .im0Dup { s with im := .im0 }

/-- R203, `ED 76`. -/
def execIm1Dup (s : State) : Host.Outcome State Fault Refusal := s.undocumented .im1Dup { s with im := .im1 }

/-- R203, `ED 7E`. -/
def execIm2Dup (s : State) : Host.Outcome State Fault Refusal := s.undocumented .im2Dup { s with im := .im2 }

/-- R203, `ED 4E` and `ED 6E`: a draw from {0, 1} (D37; log 9). -/
def execIm01 (q : Bool) (s : State) : Host.Outcome State Fault Refusal :=
  s.undocumented (.im01 q) { s with im := bif Config.freeMode s.draws then .im1 else .im0 }

/-- R206. -/
def execLdIA (s : State) : Host.Outcome State Fault Refusal := .next { s with i := s.regs.a }

/-- R207. -/
def execLdRA (s : State) : Host.Outcome State Fault Refusal := .next { s with r := s.regs.a }

/-- A special register moved to A, with its flags (R204, R205). -/
def State.loadSpecial (v : Byte) (s : State) : State := (s.putXY (specialFlags s.regs.f v s.iff2)).setA v

/-- R204. -/
def execLdAI (s : State) : Host.Outcome State Fault Refusal := .next (s.loadSpecial s.i)

/-- What a read of R gives: the counted value, or a draw (R205, R26; log 9). -/
def State.readR (s : State) : Byte :=
  match s.params.rModel with
  | .count => s.r
  | .draw => Config.freeRefresh s.draws

/-- R205. -/
def execLdAR (s : State) : Host.Outcome State Fault Refusal := .next (s.loadSpecial s.readR)

/-- R66: the two-byte no-op. -/
def execEdUndefined (_op : Byte) (s : State) : Host.Outcome State Fault Refusal := .next s

/-- R65: the fetch has already left PC at the byte after the ignored one. -/
def execIgnoredPrefix (_i : Idx) (s : State) : Host.Outcome State Fault Refusal := .next s

end Sys2Proof.Machine
end

