-- ==== Sys2Proof/Machine/Dispatch.lean ====
section
/-!
DEFINITION. One arm per constructor of Instr: each a direct call of the instruction's meaning. An instruction is run
on the state that its fetch left (Fetch.lean), so PC is already past it.
-/

namespace Sys2Proof.Machine

/-- The meaning of an instruction on the state after its fetch (files 40 to 45 of the spec). -/
def exec (i : Instr) (s : State) : Host.Outcome State Fault Refusal :=
  match i with
  | .nop => Sys2Proof.Machine.execNop s
  | .exAfAf => Sys2Proof.Machine.execExAfAf s
  | .djnz e => Sys2Proof.Machine.execDjnz e s
  | .jr e => Sys2Proof.Machine.execJr e s
  | .jrCc cc e => Sys2Proof.Machine.execJrCc cc e s
  | .ldRpNn p nn => Sys2Proof.Machine.execLdRpNn p nn s
  | .addHlRp p => Sys2Proof.Machine.execAddHlRp p s
  | .ldRpMemA p => Sys2Proof.Machine.execLdRpMemA p s
  | .ldNnMemHl nn => Sys2Proof.Machine.execLdNnMemHl nn s
  | .ldNnMemA nn => Sys2Proof.Machine.execLdNnMemA nn s
  | .ldARpMem p => Sys2Proof.Machine.execLdARpMem p s
  | .ldHlNnMem nn => Sys2Proof.Machine.execLdHlNnMem nn s
  | .ldANnMem nn => Sys2Proof.Machine.execLdANnMem nn s
  | .incRp p => Sys2Proof.Machine.execIncRp p s
  | .decRp p => Sys2Proof.Machine.execDecRp p s
  | .incR8 o => Sys2Proof.Machine.execIncR8 o s
  | .decR8 o => Sys2Proof.Machine.execDecR8 o s
  | .ldRN r n => Sys2Proof.Machine.execLdRN r n s
  | .ldHlMemN n => Sys2Proof.Machine.execLdHlMemN n s
  | .rlca => Sys2Proof.Machine.execRlca s
  | .rrca => Sys2Proof.Machine.execRrca s
  | .rla => Sys2Proof.Machine.execRla s
  | .rra => Sys2Proof.Machine.execRra s
  | .daa => Sys2Proof.Machine.execDaa s
  | .cpl => Sys2Proof.Machine.execCpl s
  | .scf => Sys2Proof.Machine.execScf s
  | .ccf => Sys2Proof.Machine.execCcf s
  | .ldRR y z => Sys2Proof.Machine.execLdRR y z s
  | .ldRHlMem y => Sys2Proof.Machine.execLdRHlMem y s
  | .ldHlMemR z => Sys2Proof.Machine.execLdHlMemR z s
  | .halt => Sys2Proof.Machine.execHalt s
  | .addAR8 o => Sys2Proof.Machine.execAddAR8 o s
  | .adcAR8 o => Sys2Proof.Machine.execAdcAR8 o s
  | .subR8 o => Sys2Proof.Machine.execSubR8 o s
  | .sbcAR8 o => Sys2Proof.Machine.execSbcAR8 o s
  | .andR8 o => Sys2Proof.Machine.execAndR8 o s
  | .xorR8 o => Sys2Proof.Machine.execXorR8 o s
  | .orR8 o => Sys2Proof.Machine.execOrR8 o s
  | .cpR8 o => Sys2Proof.Machine.execCpR8 o s
  | .retCc cc => Sys2Proof.Machine.execRetCc cc s
  | .popRp2 p => Sys2Proof.Machine.execPopRp2 p s
  | .ret => Sys2Proof.Machine.execRet s
  | .exx => Sys2Proof.Machine.execExx s
  | .jpHl => Sys2Proof.Machine.execJpHl s
  | .ldSpHl => Sys2Proof.Machine.execLdSpHl s
  | .jpCcNn cc nn => Sys2Proof.Machine.execJpCcNn cc nn s
  | .jpNn nn => Sys2Proof.Machine.execJpNn nn s
  | .outNA n => Sys2Proof.Machine.execOutNA n s
  | .inAN n => Sys2Proof.Machine.execInAN n s
  | .exSpHl => Sys2Proof.Machine.execExSpHl s
  | .exDeHl => Sys2Proof.Machine.execExDeHl s
  | .di => Sys2Proof.Machine.execDi s
  | .ei => Sys2Proof.Machine.execEi s
  | .callCcNn cc nn => Sys2Proof.Machine.execCallCcNn cc nn s
  | .pushRp2 p => Sys2Proof.Machine.execPushRp2 p s
  | .callNn nn => Sys2Proof.Machine.execCallNn nn s
  | .addAN n => Sys2Proof.Machine.execAddAN n s
  | .adcAN n => Sys2Proof.Machine.execAdcAN n s
  | .subN n => Sys2Proof.Machine.execSubN n s
  | .sbcAN n => Sys2Proof.Machine.execSbcAN n s
  | .andN n => Sys2Proof.Machine.execAndN n s
  | .xorN n => Sys2Proof.Machine.execXorN n s
  | .orN n => Sys2Proof.Machine.execOrN n s
  | .cpN n => Sys2Proof.Machine.execCpN n s
  | .rst y => Sys2Proof.Machine.execRst y s
  | .rlcR8 o => Sys2Proof.Machine.execRlcR8 o s
  | .rrcR8 o => Sys2Proof.Machine.execRrcR8 o s
  | .rlR8 o => Sys2Proof.Machine.execRlR8 o s
  | .rrR8 o => Sys2Proof.Machine.execRrR8 o s
  | .slaR8 o => Sys2Proof.Machine.execSlaR8 o s
  | .sraR8 o => Sys2Proof.Machine.execSraR8 o s
  | .sllR8 o => Sys2Proof.Machine.execSllR8 o s
  | .srlR8 o => Sys2Proof.Machine.execSrlR8 o s
  | .bitR8 b o => Sys2Proof.Machine.execBitR8 b o s
  | .resR8 b o => Sys2Proof.Machine.execResR8 b o s
  | .setR8 b o => Sys2Proof.Machine.execSetR8 b o s
  | .inRC y => Sys2Proof.Machine.execInRC y s
  | .inFC => Sys2Proof.Machine.execInFC s
  | .outCR y => Sys2Proof.Machine.execOutCR y s
  | .outC0 => Sys2Proof.Machine.execOutC0 s
  | .sbcHlRp p => Sys2Proof.Machine.execSbcHlRp p s
  | .adcHlRp p => Sys2Proof.Machine.execAdcHlRp p s
  | .ldNnMemRp p nn => Sys2Proof.Machine.execLdNnMemRp p nn s
  | .ldNnMemHlEd nn => Sys2Proof.Machine.execLdNnMemHlEd nn s
  | .ldRpNnMem p nn => Sys2Proof.Machine.execLdRpNnMem p nn s
  | .ldHlNnMemEd nn => Sys2Proof.Machine.execLdHlNnMemEd nn s
  | .neg => Sys2Proof.Machine.execNeg s
  | .negDup y => Sys2Proof.Machine.execNegDup y s
  | .retn => Sys2Proof.Machine.execRetn s
  | .reti => Sys2Proof.Machine.execReti s
  | .retnDup y => Sys2Proof.Machine.execRetnDup y s
  | .im0 => Sys2Proof.Machine.execIm0 s
  | .im1 => Sys2Proof.Machine.execIm1 s
  | .im2 => Sys2Proof.Machine.execIm2 s
  | .im0Dup => Sys2Proof.Machine.execIm0Dup s
  | .im1Dup => Sys2Proof.Machine.execIm1Dup s
  | .im2Dup => Sys2Proof.Machine.execIm2Dup s
  | .im01 q => Sys2Proof.Machine.execIm01 q s
  | .ldIA => Sys2Proof.Machine.execLdIA s
  | .ldRA => Sys2Proof.Machine.execLdRA s
  | .ldAI => Sys2Proof.Machine.execLdAI s
  | .ldAR => Sys2Proof.Machine.execLdAR s
  | .rrd => Sys2Proof.Machine.execRrd s
  | .rld => Sys2Proof.Machine.execRld s
  | .ldi => Sys2Proof.Machine.execLdi s
  | .cpi => Sys2Proof.Machine.execCpi s
  | .ini => Sys2Proof.Machine.execIni s
  | .outi => Sys2Proof.Machine.execOuti s
  | .ldd => Sys2Proof.Machine.execLdd s
  | .cpd => Sys2Proof.Machine.execCpd s
  | .ind => Sys2Proof.Machine.execInd s
  | .outd => Sys2Proof.Machine.execOutd s
  | .ldir => Sys2Proof.Machine.execLdir s
  | .cpir => Sys2Proof.Machine.execCpir s
  | .inir => Sys2Proof.Machine.execInir s
  | .otir => Sys2Proof.Machine.execOtir s
  | .lddr => Sys2Proof.Machine.execLddr s
  | .cpdr => Sys2Proof.Machine.execCpdr s
  | .indr => Sys2Proof.Machine.execIndr s
  | .otdr => Sys2Proof.Machine.execOtdr s
  | .edUndefined op => Sys2Proof.Machine.execEdUndefined op s
  | .addIdxRp x p => Sys2Proof.Machine.execAddIdxRp x p s
  | .ldIdxNn x nn => Sys2Proof.Machine.execLdIdxNn x nn s
  | .ldNnMemIdx x nn => Sys2Proof.Machine.execLdNnMemIdx x nn s
  | .ldIdxNnMem x nn => Sys2Proof.Machine.execLdIdxNnMem x nn s
  | .incIdx x => Sys2Proof.Machine.execIncIdx x s
  | .decIdx x => Sys2Proof.Machine.execDecIdx x s
  | .incHalf x h => Sys2Proof.Machine.execIncHalf x h s
  | .decHalf x h => Sys2Proof.Machine.execDecHalf x h s
  | .ldHalfN x h n => Sys2Proof.Machine.execLdHalfN x h n s
  | .incIdxMem x d => Sys2Proof.Machine.execIncIdxMem x d s
  | .decIdxMem x d => Sys2Proof.Machine.execDecIdxMem x d s
  | .ldIdxMemN x d n => Sys2Proof.Machine.execLdIdxMemN x d n s
  | .ldRIdxMem y x d => Sys2Proof.Machine.execLdRIdxMem y x d s
  | .ldIdxMemR x d z => Sys2Proof.Machine.execLdIdxMemR x d z s
  | .ldXX x y z => Sys2Proof.Machine.execLdXX x y z s
  | .addAIdxMem x d => Sys2Proof.Machine.execAddAIdxMem x d s
  | .addAHalf x h => Sys2Proof.Machine.execAddAHalf x h s
  | .adcAIdxMem x d => Sys2Proof.Machine.execAdcAIdxMem x d s
  | .adcAHalf x h => Sys2Proof.Machine.execAdcAHalf x h s
  | .subIdxMem x d => Sys2Proof.Machine.execSubIdxMem x d s
  | .subHalf x h => Sys2Proof.Machine.execSubHalf x h s
  | .sbcAIdxMem x d => Sys2Proof.Machine.execSbcAIdxMem x d s
  | .sbcAHalf x h => Sys2Proof.Machine.execSbcAHalf x h s
  | .andIdxMem x d => Sys2Proof.Machine.execAndIdxMem x d s
  | .andHalf x h => Sys2Proof.Machine.execAndHalf x h s
  | .xorIdxMem x d => Sys2Proof.Machine.execXorIdxMem x d s
  | .xorHalf x h => Sys2Proof.Machine.execXorHalf x h s
  | .orIdxMem x d => Sys2Proof.Machine.execOrIdxMem x d s
  | .orHalf x h => Sys2Proof.Machine.execOrHalf x h s
  | .cpIdxMem x d => Sys2Proof.Machine.execCpIdxMem x d s
  | .cpHalf x h => Sys2Proof.Machine.execCpHalf x h s
  | .popIdx x => Sys2Proof.Machine.execPopIdx x s
  | .exSpIdx x => Sys2Proof.Machine.execExSpIdx x s
  | .pushIdx x => Sys2Proof.Machine.execPushIdx x s
  | .jpIdx x => Sys2Proof.Machine.execJpIdx x s
  | .ldSpIdx x => Sys2Proof.Machine.execLdSpIdx x s
  | .ignoredPrefix x => Sys2Proof.Machine.execIgnoredPrefix x s
  | .rlcIdxMem x d => Sys2Proof.Machine.execRlcIdxMem x d s
  | .rlcIdxCopy x d z => Sys2Proof.Machine.execRlcIdxCopy x d z s
  | .rrcIdxMem x d => Sys2Proof.Machine.execRrcIdxMem x d s
  | .rrcIdxCopy x d z => Sys2Proof.Machine.execRrcIdxCopy x d z s
  | .rlIdxMem x d => Sys2Proof.Machine.execRlIdxMem x d s
  | .rlIdxCopy x d z => Sys2Proof.Machine.execRlIdxCopy x d z s
  | .rrIdxMem x d => Sys2Proof.Machine.execRrIdxMem x d s
  | .rrIdxCopy x d z => Sys2Proof.Machine.execRrIdxCopy x d z s
  | .slaIdxMem x d => Sys2Proof.Machine.execSlaIdxMem x d s
  | .slaIdxCopy x d z => Sys2Proof.Machine.execSlaIdxCopy x d z s
  | .sraIdxMem x d => Sys2Proof.Machine.execSraIdxMem x d s
  | .sraIdxCopy x d z => Sys2Proof.Machine.execSraIdxCopy x d z s
  | .sllIdxMem x d => Sys2Proof.Machine.execSllIdxMem x d s
  | .sllIdxCopy x d z => Sys2Proof.Machine.execSllIdxCopy x d z s
  | .srlIdxMem x d => Sys2Proof.Machine.execSrlIdxMem x d s
  | .srlIdxCopy x d z => Sys2Proof.Machine.execSrlIdxCopy x d z s
  | .bitIdxMem b x d => Sys2Proof.Machine.execBitIdxMem b x d s
  | .bitIdxDup b x d z => Sys2Proof.Machine.execBitIdxDup b x d z s
  | .resIdxMem b x d => Sys2Proof.Machine.execResIdxMem b x d s
  | .resIdxCopy b x d z => Sys2Proof.Machine.execResIdxCopy b x d z s
  | .setIdxMem b x d => Sys2Proof.Machine.execSetIdxMem b x d s
  | .setIdxCopy b x d z => Sys2Proof.Machine.execSetIdxCopy b x d z s

end Sys2Proof.Machine
end

