-- ==== Sys2Proof/Machine/Fetch.lean ====
section
/-!
DEFINITION. Fetching and decoding one instruction from the Bus at PC (30_encoding.md rules R53, R65, R70; 10_state.md
rules R20, R26): every byte once, in order, and no byte past what the decoder must see.
-/

namespace Sys2Proof.Machine

/-- n calls of `fetch8()`, first byte first. -/
def State.fetchBytes : Nat → State → List Byte × State
  | 0, s => ([], s)
  | n + 1, s =>
    let b := s.fetch8
    let rest := State.fetchBytes n b.2
    (b.1 :: rest.1, rest.2)

/-- `decode()` with the operand bytes fetched after it (R53): the instruction, PC past it and R advanced. A byte that
selects another map counts a second opcode fetch, unless it is an ignored `DD` or `FD`, whose look-ahead byte PC is
backed up to (R65). -/
def State.fetchInstr (s : State) : Instr × State :=
  let b0 := s.fetch8
  if selectsMap b0.1 then
    let b1 := b0.2.fetch8
    let length := instrLength b0.1 b1.1
    let rest := State.fetchBytes (length - 2) b1.2
    let instr := decodeBytes b0.1 b1.1 (rest.1.getD 0 0) (rest.1.getD 1 0)
    if length = 1 then (instr, (rest.2.setPc (rest.2.pc - 1)).countR 1) else (instr, rest.2.countR 2)
  else
    let rest := State.fetchBytes (instrLength b0.1 0 - 1) b0.2
    (decodeBytes b0.1 (rest.1.getD 0 0) (rest.1.getD 1 0) 0, rest.2.countR 1)

/-- Plain memory with bytes stored from an address on, addresses modulo 2^16. -/
def Memory.place (m : List Host.Cell) (a : Word) : List Byte → List Host.Cell
  | [] => m
  | b :: rest => Memory.place (Memory.write m a.toNat b) (a + 1) rest

/-- The bytes of an opcode-table word stored at PC, with what it takes for the next step to fetch them: the core
initialised, its control cells written, not faulted and not halted, no request pending, no device at PC, and no forbidden
host call in the environment's next answer, which a port instruction asks for (log 14). -/
def State.placeWord (s : State) (nbits w : Nat) : State :=
  { s with
    mem := Memory.place s.mem s.pc (tableBytes nbits w)
    initialised := true
    controlWritten := true
    violation := none
    answers := { s.answerTo (.ioRead s.pc) with call := none } :: s.answers.tail
    bus := some { devices := [] }
    halted := false
    nmiLatch := false
    intLine := false }

end Sys2Proof.Machine
end

