-- ==== Sys2Proof/Machine/RunLoop.lean ====
section
/-!
DEFINITION. One iteration of the run loop, and `Run` (60_exceptions.md rules R213, R229).
-/

namespace Sys2Proof.Machine

/-- What one iteration of the loop was: an acceptance, one instruction, or the turn of a halted core at which nothing
was accepted, which ends the call (R229). -/
inductive Turn where
  | accepted | executed | idle
  deriving DecidableEq, Repr

/-- The control cell that the poll of a core finds unwritten first: the latch, or, if `TriggerNMI` has written that,
`halted`, which the acceptance then reads (R214, R215). -/
def State.firstUnwritten (s : State) : ControlCell := if s.nmiLatch then .halted else .nmiLatch

/-- One iteration: the poll; if it accepts nothing and the core is not halted, one instruction (R229). A core that is
not initialised is outside `Run`'s precondition, and one whose control cells are unwritten faults at the poll (R246).
A callback's forbidden host call ends the step where it is made (R235). The free values move on first (log 8). -/
def iterate (s : State) : Host.Outcome (State × Turn) Fault Refusal :=
  if s.initialised then
    if s.controlWritten then
      let polled := s.nextDraw.poll
      polled.1.unlessViolated <|
        if polled.2 then .next (polled.1, .accepted)
        else if polled.1.halted then .next (polled.1, .idle)
        else
          let fetched := polled.1.fetchInstr
          fetched.2.unlessViolated <|
            match exec fetched.1 fetched.2 with
            | .next t => t.unlessViolated (.next (t, .executed))
            | .fault f => .fault f
            | .refused r => .refused r
    else .fault (.unwrittenRead s.firstUnwritten)
  else .fault (.preconditionViolation .run)

/-- The loop of `Run` with k iterations of the budget left and `count` done: the state and the returned count. -/
def runLoop : Nat → State → Nat → Host.Outcome (State × Nat) Fault Refusal
  | 0, s, count => .next (s, count)
  | k + 1, s, count =>
    match iterate s with
    | .next (t, .accepted) => runLoop k t (count + 1)
    | .next (t, .idle) => .next (t, count)
    | .next (t, .executed) => if t.halted then .next (t, count + 1) else runLoop k t (count + 1)
    | .fault f => .fault f
    | .refused r => .refused r

/-- `Run(n)`, n a 32-bit count: the state after it and how many iterations counted (R229). -/
def run (n : BitVec 32) (s : State) : Host.Outcome (State × Nat) Fault Refusal :=
  if s.initialised then runLoop n.toNat s 0 else .fault (.preconditionViolation .run)

end Sys2Proof.Machine
end

