-- ==== Sys2Proof/Machine/HostCalls.lean ====
section
/-!
DEFINITION. The host interface (60_exceptions.md rules R231 to R236; 70_reset_and_hazards.md rule R244).
-/

namespace Sys2Proof.Machine

/-- What `SaveContext` encodes (R233): every Register Context cell, `halted`, the two lines, and whether the control
cells have been written; none of the administrative state. -/
structure Context where
  regs : Bank
  alt : Bank
  ix : Word
  iy : Word
  sp : Word
  pc : Word
  i : Byte
  r : Byte
  iff1 : Bool
  iff2 : Bool
  im : IntMode
  halted : Bool
  nmiLatch : Bool
  intLine : Bool
  controlWritten : Bool
  deriving DecidableEq, Repr

/-- The opaque blob: one that `SaveContext` produced, or any other bytes (R233, R234; log 12). -/
inductive Blob where
  | saved (context : Context)
  | foreign
  deriving DecidableEq, Repr

/-- A core just constructed (R32, R236): not initialised, no Bus, no provider, its control cells unwritten (R33). DESIGN
CHOICE, safe: the spec gives PC, IFF1, IFF2, IM, I, R, halted and the two lines no value before the first `Reset` or
`LoadContext`; the model lets them hold their reset values, which no step reads, since the poll of such a core faults.
DESIGN CHOICE, unsafe: the other registers hold the values of State.reset (log 1). -/
def State.constructed : State :=
  { State.reset with initialised := false, bus := none, provider := false, controlWritten := false }

/-- `Reset()` (R244): the cells it writes, all the control cells; every other cell keeps what it held. -/
def State.resetCall (s : State) : State :=
  { s with
    pc := 0x0000
    iff1 := false
    iff2 := false
    im := .im0
    i := 0x00
    r := 0x00
    halted := false
    nmiLatch := false
    intLine := false
    controlWritten := true }

/-- `Init(bus, provider)` (R231): once only. -/
def State.initCall (bus : Bus) (provider : Bool) (s : State) : Host.Outcome State Fault Refusal :=
  if s.initialised then .fault (.preconditionViolation .init)
  else .next { s with bus := some bus, provider := provider, initialised := true }

/-- `TriggerNMI()` (R212). -/
def State.triggerNmi (s : State) : State := { s with nmiLatch := true }

/-- `SetLevelInterrupt(active)` (R212). -/
def State.setLevelInterrupt (active : Bool) (s : State) : State := { s with intLine := active }

/-- `SaveContext()` (R233). -/
def State.saveContext (s : State) : Blob :=
  .saved
    { regs := s.regs, alt := s.alt, ix := s.ix, iy := s.iy, sp := s.sp, pc := s.pc, i := s.i, r := s.r
      iff1 := s.iff1, iff2 := s.iff2, im := s.im, halted := s.halted, nmiLatch := s.nmiLatch, intLine := s.intLine
      controlWritten := s.controlWritten }

/-- Every cell the blob encodes written with the saved value, or left unwritten if it was saved so (R234). -/
def State.restore (context : Context) (s : State) : State :=
  { s with
    regs := context.regs
    alt := context.alt
    ix := context.ix
    iy := context.iy
    sp := context.sp
    pc := context.pc
    i := context.i
    r := context.r
    iff1 := context.iff1
    iff2 := context.iff2
    im := context.im
    halted := context.halted
    nmiLatch := context.nmiLatch
    intLine := context.intLine
    controlWritten := context.controlWritten }

/-- `LoadContext(blob)` (R234). -/
def State.loadContext (blob : Blob) (s : State) : Host.Outcome State Fault Refusal :=
  match blob with
  | .saved context => .next (s.restore context)
  | .foreign => .fault .invalidContextBlob

/-- A host call on a constructed core (R236). -/
inductive HostCall where
  | init (bus : Bus) (provider : Bool)
  | reset
  | run (n : BitVec 32)
  | triggerNmi
  | setLevelInterrupt (active : Bool)
  | saveContext
  | loadContext (blob : Blob)
  deriving DecidableEq, Repr

/-- What a host call gives back: nothing, the count executed, or a blob (R236). -/
inductive Reply where
  | nothing
  | count (n : Nat)
  | blob (b : Blob)
  deriving DecidableEq, Repr

/-- The state a call leaves and what it gives back, when it gives back nothing. -/
def withoutReply (o : Host.Outcome State Fault Refusal) : Host.Outcome (State × Reply) Fault Refusal :=
  match o with
  | .next t => .next (t, .nothing)
  | .fault f => .fault f
  | .refused r => .refused r

/-- A call that is not allowed while a `Run` of the same core is in progress (R235). -/
def outsideRun (inRun : Bool) (call : Config.HostCallName) (o : Host.Outcome (State × Reply) Fault Refusal) :
    Host.Outcome (State × Reply) Fault Refusal :=
  if inRun then .fault (.preconditionViolation call) else o

/-- What `Run` gives back: the count executed. -/
def runReply (o : Host.Outcome (State × Nat) Fault Refusal) : Host.Outcome (State × Reply) Fault Refusal :=
  match o with
  | .next (t, count) => .next (t, .count count)
  | .fault f => .fault f
  | .refused r => .refused r

/-- A host call, made while a `Run` of the same core is in progress or not (R235, R236). A call that a callback of a step
makes is part of the environment's answer (R235; log 13). -/
def hostCall (inRun : Bool) (call : HostCall) (s : State) : Host.Outcome (State × Reply) Fault Refusal :=
  match call with
  | .triggerNmi => .next (s.triggerNmi, .nothing)
  | .setLevelInterrupt active => .next (s.setLevelInterrupt active, .nothing)
  | .init bus provider => outsideRun inRun .init (withoutReply (s.initCall bus provider))
  | .reset => outsideRun inRun .reset (.next (s.resetCall, .nothing))
  | .run n => outsideRun inRun .run (runReply (Sys2Proof.Machine.run n s))
  | .saveContext => outsideRun inRun .saveContext (.next (s, .blob s.saveContext))
  | .loadContext blob => outsideRun inRun .loadContext (withoutReply (s.loadContext blob))

end Sys2Proof.Machine
end

