-- ==== Sys2Proof/Machine/Step.lean ====
section
/-!
DEFINITION. The step: one iteration of the run loop (60_exceptions.md rule R229), and the placing of one
opcode-table word where the next step fetches.
-/

namespace Sys2Proof.Machine

/-- One step (log 11). -/
def step (s : State) : Host.Outcome State Fault Refusal :=
  match iterate s with
  | .next (t, _) => .next t
  | .fault f => .fault f
  | .refused r => .refused r

/-- The state with an opcode-table word's instruction at PC, and what it takes for the next step to run it
(`State.placeWord`; log 14). -/
def State.withFetchWord (s : State) (nbits w : Nat) : State := s.placeWord nbits w

end Sys2Proof.Machine
end

