-- ==== Sys2Proof/Safety.lean ====
section
/-!
DEFINITION. The terms claims are stated in: the cells of the register context and what each instruction may write; the
invariant every step keeps; which bytes an instruction fetches; the gated encodings as bytes; and what the outcome of an
access, an operation or an acceptance looks like, in the spec's arithmetic (00_scope.md rules R7 to R10, 10_state.md
rule R21, 20_memory.md rules R37 to R39, 41_arith_logic.md rules R113 to R123).
-/

namespace Sys2Proof.Machine

/-! ### The cells of the register context -/

/-- The eight bits of F (10_state.md rule R21). -/
inductive FlagName where
  | s | z | y | h | x | pv | n | c
  deriving DecidableEq, Repr

/-- A cell of the register context (10_state.md rules R16 to R29). -/
inductive Cell where
  | reg (r : Reg8)
  | flag (f : FlagName)
  | altReg (r : Reg8)
  | altFlag (f : FlagName)
  | ix | iy | sp | pc | i | r | iff1 | iff2 | im | halted
  deriving DecidableEq, Repr

/-- One bit of F. -/
def Flags.bit (f : Flags) : FlagName → Bool
  | .s => f.s | .z => f.z | .y => f.y | .h => f.h | .x => f.x | .pv => f.pv | .n => f.n | .c => f.c

/-- The number of the interrupt mode (10_state.md rule R28). -/
def IntMode.number : IntMode → Nat
  | .im0 => 0 | .im1 => 1 | .im2 => 2

/-- What a cell holds, as a number. -/
def State.cell (s : State) : Cell → Nat
  | .reg r => (s.regs.get r).toNat
  | .flag f => (s.regs.f.bit f).toNat
  | .altReg r => (s.alt.get r).toNat
  | .altFlag f => (s.alt.f.bit f).toNat
  | .ix => s.ix.toNat
  | .iy => s.iy.toNat
  | .sp => s.sp.toNat
  | .pc => s.pc.toNat
  | .i => s.i.toNat
  | .r => s.r.toNat
  | .iff1 => s.iff1.toNat
  | .iff2 => s.iff2.toNat
  | .im => s.im.number
  | .halted => s.halted.toNat

/-- Every cell outside the list is unchanged. -/
def KeptOutside (written : List Cell) (s t : State) : Prop := ∀ cell, cell ∉ written → t.cell cell = s.cell cell

/-- What an address of plain memory holds. -/
def State.byteAt (s : State) (a : Word) : Byte := Memory.read s.mem a.toNat

/-- No device answers at the address. -/
def State.plainAt (s : State) (a : Word) : Prop := s.isDevice a = false

/-! ### What each instruction may write -/

/-- All of F. -/
def allFlags : List Cell :=
  [.flag .s, .flag .z, .flag .y, .flag .h, .flag .x, .flag .pv, .flag .n, .flag .c]

/-- All of F but C. -/
def flagsButC : List Cell := [.flag .s, .flag .z, .flag .y, .flag .h, .flag .x, .flag .pv, .flag .n]

/-- All of F but S, Z and PV. -/
def flagsButSzp : List Cell := [.flag .y, .flag .h, .flag .x, .flag .n, .flag .c]

end Sys2Proof.Machine

namespace Sys2Proof

open Machine

/-- The two halves of a register pair. -/
def Rp.cells : Rp → List Cell
  | .bc => [.reg .b, .reg .c] | .de => [.reg .d, .reg .e] | .hl => [.reg .h, .reg .l] | .sp => [.sp]

/-- What a pop of the pair writes. -/
def Rp2.cells : Rp2 → List Cell
  | .bc => [.reg .b, .reg .c] | .de => [.reg .d, .reg .e] | .hl => [.reg .h, .reg .l] | .af => .reg .a :: allFlags

/-- The index register. -/
def Idx.cell : Idx → Cell
  | .ix => .ix | .iy => .iy

/-- The register `r8[k]` names, if it names one. -/
def Opnd8.cells : Opnd8 → List Cell
  | .reg r => [.reg r]
  | .hlMem => []

/-- The cell an operand of rule R86 is part of. -/
def RegX.cell (i : Idx) : RegX → Cell
  | .b => .reg .b | .c => .reg .c | .d => .reg .d | .e => .reg .e | .a => .reg .a
  | .idxH | .idxL => i.cell

/-- Every cell an instruction's rule writes on some path, PC past the instruction aside (files 40 to 45). -/
def Instr.writes : Instr → List Cell
  | .nop | .ldRpMemA _ | .ldNnMemHl _ | .ldNnMemA _ | .ldHlMemN _ | .ldHlMemR _ | .outNA _ | .outCR _ | .outC0
  | .ldNnMemRp _ _ | .ldNnMemHlEd _ | .edUndefined _ | .ldNnMemIdx _ _ | .ldIdxMemN _ _ _ | .ldIdxMemR _ _ _
  | .ignoredPrefix _ | .resIdxMem _ _ _ | .setIdxMem _ _ _ => []
  | .exAfAf => .reg .a :: .altReg .a :: allFlags ++
      [.altFlag .s, .altFlag .z, .altFlag .y, .altFlag .h, .altFlag .x, .altFlag .pv, .altFlag .n, .altFlag .c]
  | .exx =>
      [.reg .b, .reg .c, .reg .d, .reg .e, .reg .h, .reg .l,
       .altReg .b, .altReg .c, .altReg .d, .altReg .e, .altReg .h, .altReg .l]
  | .exDeHl => [.reg .d, .reg .e, .reg .h, .reg .l]
  | .djnz _ => [.reg .b, .pc]
  | .jr _ | .jrCc _ _ | .jpHl | .jpCcNn _ _ | .jpNn _ | .jpIdx _ => [.pc]
  | .callCcNn _ _ | .callNn _ | .rst _ | .retCc _ | .ret => [.sp, .pc]
  | .retn | .retnDup _ | .reti => [.sp, .pc, .iff1]
  | .pushRp2 _ | .pushIdx _ | .ldSpHl | .ldSpIdx _ => [.sp]
  | .popRp2 p => .sp :: p.cells
  | .popIdx i => [.sp, i.cell]
  | .ldRpNn p _ | .incRp p | .decRp p | .ldRpNnMem p _ => p.cells
  | .ldHlNnMem _ | .ldHlNnMemEd _ | .exSpHl => [.reg .h, .reg .l]
  | .ldIdxNn i _ | .ldIdxNnMem i _ | .incIdx i | .decIdx i | .ldHalfN i _ _ | .exSpIdx i => [i.cell]
  | .ldARpMem _ | .ldANnMem _ | .inAN _ => [.reg .a]
  | .ldRN r _ | .ldRR r _ | .ldRHlMem r | .ldRIdxMem r _ _ => [.reg r]
  | .ldXX i y _ => [y.cell i]
  | .addHlRp _ => .reg .h :: .reg .l :: flagsButSzp
  | .adcHlRp _ | .sbcHlRp _ => .reg .h :: .reg .l :: allFlags
  | .addIdxRp i _ => i.cell :: flagsButSzp
  | .incR8 o | .decR8 o => o.cells ++ flagsButC
  | .incIdxMem _ _ | .decIdxMem _ _ | .inFC => flagsButC
  | .incHalf i _ | .decHalf i _ => i.cell :: flagsButC
  | .rlca | .rrca | .rla | .rra => .reg .a :: flagsButSzp
  | .daa => [.reg .a, .flag .s, .flag .z, .flag .y, .flag .h, .flag .x, .flag .pv, .flag .c]
  | .cpl => [.reg .a, .flag .y, .flag .h, .flag .x, .flag .n]
  | .scf | .ccf => flagsButSzp
  | .addAR8 _ | .adcAR8 _ | .subR8 _ | .sbcAR8 _ | .andR8 _ | .xorR8 _ | .orR8 _
  | .addAN _ | .adcAN _ | .subN _ | .sbcAN _ | .andN _ | .xorN _ | .orN _
  | .addAIdxMem _ _ | .adcAIdxMem _ _ | .subIdxMem _ _ | .sbcAIdxMem _ _ | .andIdxMem _ _ | .xorIdxMem _ _
  | .orIdxMem _ _ | .addAHalf _ _ | .adcAHalf _ _ | .subHalf _ _ | .sbcAHalf _ _ | .andHalf _ _ | .xorHalf _ _
  | .orHalf _ _ | .neg | .negDup _ => .reg .a :: allFlags
  | .cpR8 _ | .cpN _ | .cpIdxMem _ _ | .cpHalf _ _ => allFlags
  | .halt => [.pc, .halted]
  | .di | .ei => [.iff1, .iff2]
  | .im0 | .im1 | .im2 | .im0Dup | .im1Dup | .im2Dup | .im01 _ => [.im]
  | .ldIA => [.i]
  | .ldRA => [.r]
  | .ldAI | .ldAR | .rrd | .rld => .reg .a :: flagsButC
  | .rlcR8 o | .rrcR8 o | .rlR8 o | .rrR8 o | .slaR8 o | .sraR8 o | .sllR8 o | .srlR8 o => o.cells ++ allFlags
  | .rlcIdxMem _ _ | .rrcIdxMem _ _ | .rlIdxMem _ _ | .rrIdxMem _ _ | .slaIdxMem _ _ | .sraIdxMem _ _
  | .sllIdxMem _ _ | .srlIdxMem _ _ => allFlags
  | .rlcIdxCopy _ _ z | .rrcIdxCopy _ _ z | .rlIdxCopy _ _ z | .rrIdxCopy _ _ z | .slaIdxCopy _ _ z
  | .sraIdxCopy _ _ z | .sllIdxCopy _ _ z | .srlIdxCopy _ _ z => .reg z :: allFlags
  | .bitR8 _ _ | .bitIdxMem _ _ _ | .bitIdxDup _ _ _ _ => flagsButC
  | .resR8 _ o | .setR8 _ o => o.cells
  | .resIdxCopy _ _ _ z | .setIdxCopy _ _ _ z => [.reg z]
  | .inRC y => .reg y :: flagsButC
  | .ldi | .ldd =>
      [.reg .b, .reg .c, .reg .d, .reg .e, .reg .h, .reg .l, .flag .y, .flag .h, .flag .x, .flag .pv, .flag .n]
  | .ldir | .lddr =>
      [.reg .b, .reg .c, .reg .d, .reg .e, .reg .h, .reg .l, .flag .y, .flag .h, .flag .x, .flag .pv, .flag .n, .pc]
  | .cpi | .cpd => [.reg .b, .reg .c, .reg .h, .reg .l] ++ flagsButC
  | .cpir | .cpdr => [.reg .b, .reg .c, .reg .h, .reg .l, .pc] ++ flagsButC
  | .ini | .ind | .outi | .outd => [.reg .b, .reg .h, .reg .l] ++ allFlags
  | .inir | .indr | .otir | .otdr => [.reg .b, .reg .h, .reg .l, .pc] ++ allFlags

/-- `(HL)`, if that is the operand. -/
def Opnd8.address (s : State) : Opnd8 → List Word
  | .reg _ => []
  | .hlMem => [s.hl]

/-- Every address an instruction stores to, from the state it runs on: the address of the destination operand, of the
two bytes of a word, or of the stack slot. -/
def Instr.stores (i : Instr) (s : State) : List Word :=
  match i with
  | .ldRpMemA p => [s.bcDe p]
  | .ldNnMemA nn => [nn]
  | .ldNnMemHl nn | .ldNnMemHlEd nn | .ldNnMemRp _ nn | .ldNnMemIdx _ nn => [nn, nn + 1]
  | .ldHlMemN _ | .ldHlMemR _ | .rrd | .rld | .ini | .ind | .inir | .indr => [s.hl]
  | .ldIdxMemN i d _ | .ldIdxMemR i d _ | .incIdxMem i d | .decIdxMem i d
  | .rlcIdxMem i d | .rrcIdxMem i d | .rlIdxMem i d | .rrIdxMem i d | .slaIdxMem i d | .sraIdxMem i d
  | .sllIdxMem i d | .srlIdxMem i d | .resIdxMem _ i d | .setIdxMem _ i d
  | .rlcIdxCopy i d _ | .rrcIdxCopy i d _ | .rlIdxCopy i d _ | .rrIdxCopy i d _ | .slaIdxCopy i d _
  | .sraIdxCopy i d _ | .sllIdxCopy i d _ | .srlIdxCopy i d _ | .resIdxCopy _ i d _ | .setIdxCopy _ i d _ =>
      [s.indexed i d]
  | .incR8 o | .decR8 o | .rlcR8 o | .rrcR8 o | .rlR8 o | .rrR8 o | .slaR8 o | .sraR8 o | .sllR8 o | .srlR8 o
  | .resR8 _ o | .setR8 _ o => o.address s
  | .pushRp2 _ | .pushIdx _ | .callNn _ | .rst _ => [s.sp - 1, s.sp - 2]
  | .callCcNn cc _ => if s.cond cc then [s.sp - 1, s.sp - 2] else []
  | .exSpHl | .exSpIdx _ => [s.sp, s.sp + 1]
  | .ldi | .ldd | .ldir | .lddr => [s.de]
  | .nop | .exAfAf | .djnz _ | .jr _ | .jrCc _ _ | .ldRpNn _ _ | .addHlRp _ | .ldARpMem _ | .ldHlNnMem _
  | .ldANnMem _ | .incRp _ | .decRp _ | .ldRN _ _ | .rlca | .rrca | .rla | .rra | .daa | .cpl | .scf | .ccf
  | .ldRR _ _ | .ldRHlMem _ | .halt | .addAR8 _ | .adcAR8 _ | .subR8 _ | .sbcAR8 _ | .andR8 _ | .xorR8 _ | .orR8 _
  | .cpR8 _ | .retCc _ | .popRp2 _ | .ret | .exx | .jpHl | .ldSpHl | .jpCcNn _ _ | .jpNn _ | .outNA _ | .inAN _
  | .exDeHl | .di | .ei | .addAN _ | .adcAN _ | .subN _ | .sbcAN _ | .andN _ | .xorN _ | .orN _ | .cpN _
  | .bitR8 _ _ | .inRC _ | .inFC | .outCR _ | .outC0 | .sbcHlRp _ | .adcHlRp _ | .ldRpNnMem _ _ | .ldHlNnMemEd _
  | .neg | .negDup _ | .retn | .reti | .retnDup _ | .im0 | .im1 | .im2 | .im0Dup | .im1Dup | .im2Dup | .im01 _
  | .ldIA | .ldRA | .ldAI | .ldAR | .cpi | .outi | .cpd | .outd | .cpir | .otir | .cpdr | .otdr | .edUndefined _
  | .addIdxRp _ _ | .ldIdxNn _ _ | .ldIdxNnMem _ _ | .incIdx _ | .decIdx _ | .incHalf _ _ | .decHalf _ _
  | .ldHalfN _ _ _ | .ldRIdxMem _ _ _ | .ldXX _ _ _ | .addAIdxMem _ _ | .addAHalf _ _ | .adcAIdxMem _ _
  | .adcAHalf _ _ | .subIdxMem _ _ | .subHalf _ _ | .sbcAIdxMem _ _ | .sbcAHalf _ _ | .andIdxMem _ _ | .andHalf _ _
  | .xorIdxMem _ _ | .xorHalf _ _ | .orIdxMem _ _ | .orHalf _ _ | .cpIdxMem _ _ | .cpHalf _ _ | .popIdx _ | .jpIdx _
  | .ldSpIdx _ | .ignoredPrefix _ | .bitIdxMem _ _ _ | .bitIdxDup _ _ _ _ => []

/-- The instructions that access a port (20_memory.md rule R44). -/
def Instr.usesPort : Instr → Bool
  | .inAN _ | .outNA _ | .inRC _ | .inFC | .outCR _ | .outC0 | .ini | .ind | .inir | .indr | .outi | .outd | .otir
  | .otdr => true
  | _ => false

end Sys2Proof

namespace Sys2Proof.Machine

/-! ### The invariant -/

/-- Plain memory is in canonical form, the Bus is there exactly when `Init` has been done, the provider only then
(10_state.md rule R32), and no forbidden host call stands (60_exceptions.md rule R235). -/
def State.Inv (s : State) : Prop :=
  Memory.wf s.mem = true ∧ s.bus.isSome = s.initialised ∧ (s.provider = true → s.initialised = true) ∧
  s.violation = none

/-- `Run`'s precondition holds, the control cells have been written, and the core is not faulted
(10_state.md rule R33, 60_exceptions.md rules R229, R235, 70_reset_and_hazards.md rule R246). -/
def State.live (s : State) : Prop := s.initialised = true ∧ s.controlWritten = true ∧ s.violation = none

/-- The next n answers of the environment are fixed, and none makes a forbidden host call (R235). -/
def State.quiet (s : State) (n : Nat) : Prop :=
  n ≤ s.answers.length ∧ ∀ answer ∈ s.answers.take n, answer.call = none

/-- What a step ends in, given what its last operation left: the fault of a forbidden host call that a callback made, if
one did (60_exceptions.md rule R235). -/
def endOfStep (o : Host.Outcome State Fault Refusal) : Host.Outcome State Fault Refusal :=
  match o with
  | .next t =>
    match t.violation with
    | none => .next t
    | some call => .fault (.preconditionViolation call)
  | .fault f => .fault f
  | .refused r => .refused r

/-! ### Bytes of an instruction -/

/-- A byte after `DD` or `FD` that makes it an ignored prefix (30_encoding.md rule R65). -/
def ignoredBy (b1 : Byte) : Bool := b1 != 0xCB && (decodeDd .ix b1 0 0).isNone

end Sys2Proof.Machine

namespace Sys2Proof

/-- What may follow the bytes of an instruction: an ignored prefix is one only before a byte that makes it so. -/
def Instr.mayBefore (i : Instr) (rest : List Byte) : Prop :=
  match i with
  | .ignoredPrefix _ => ∃ b more, rest = b :: more ∧ Machine.ignoredBy b = true
  | _ => True

end Sys2Proof

namespace Sys2Proof.Machine

/-- The gated encodings of 30_encoding.md rule R67, from the bytes the rule lists. -/
def gatedBytes (b0 b1 b3 : Byte) : Bool :=
  let y := b1.toNat / 8 % 8
  let z := b1.toNat % 8
  if b0 = 0xCB then decide (0x30 ≤ b1.toNat) && decide (b1.toNat ≤ 0x37)
  else if b0 = 0xED then
    [0x4C, 0x54, 0x5C, 0x64, 0x6C, 0x74, 0x7C, 0x55, 0x5D, 0x65, 0x6D, 0x75, 0x7D, 0x4E, 0x66, 0x6E, 0x76, 0x7E, 0x63,
     0x6B, 0x70, 0x71].contains b1.toNat
  else if b0 = 0xDD ∨ b0 = 0xFD then
    if b1 = 0xCB then b3.toNat % 8 != 6 || b3 == 0x36
    else
      [0x24, 0x25, 0x26, 0x2C, 0x2D, 0x2E, 0x84, 0x85, 0x8C, 0x8D, 0x94, 0x95, 0x9C, 0x9D, 0xA4, 0xA5, 0xAC, 0xAD, 0xB4,
       0xB5, 0xBC, 0xBD].contains b1.toNat ||
      (b1.toNat / 64 == 1 && y != 6 && z != 6 && (y == 4 || y == 5 || z == 4 || z == 5))
  else false

/-- The bytes from an address on, as plain memory holds them. -/
def State.bytesAt (s : State) (a : Word) : Nat → List Byte
  | 0 => []
  | n + 1 => s.byteAt a :: s.bytesAt (a + 1) n

/-- The reads of n bytes from an address on, newest first. -/
def State.readsFrom (s : State) (a : Word) : Nat → List Config.BusEvent
  | 0 => []
  | n + 1 => s.readsFrom (a + 1) n ++ [.memRead a (s.byteAt a)]

/-- Opcode fetches that R counts (10_state.md rule R26): two when the first byte selects a map, one otherwise and for an
ignored prefix. -/
def opcodeFetches (b0 b1 : Byte) : Nat :=
  if b0 = 0xCB ∨ b0 = 0xED then 2
  else if b0 = 0xDD ∨ b0 = 0xFD then if ignoredBy b1 then 1 else 2
  else 1

/-- No device answers at the four addresses an instruction at PC can take its bytes from. -/
def State.plainFetch (s : State) : Prop := ∀ k : Nat, k < 4 → s.plainAt (s.pc + BitVec.ofNat 16 k)

/-- The state the fetch of an instruction from plain memory leaves: PC past it (10_state.md rule R20), R advanced by the
counted opcode fetches (R26), every byte read once in order, with the look-ahead of an ignored prefix (20_memory.md rule
R37, 30_encoding.md rule R65), and nothing else changed. -/
def State.afterFetch (s : State) (i : Instr) : State :=
  let b0 := s.byteAt s.pc
  let b1 := s.byteAt (s.pc + 1)
  { s with
    pc := s.pc + BitVec.ofNat 16 i.encode.length
    r := match s.params.rModel with
      | .count => advanceR s.r (opcodeFetches b0 b1)
      | .draw => s.r
    trace := s.readsFrom s.pc (bytesSeen b0 b1) ++ s.trace }

/-- The poll accepts nothing here without asking the provider, and the core runs (60_exceptions.md rule R214). -/
def State.runsNext (s : State) : Prop :=
  s.live ∧ s.nmiLatch = false ∧ (s.intLine && s.iff1) = false ∧ s.halted = false

/-- The poll turns the maskable request away, or there is none: the line not active or not enabled, or, in modes 0 and
2, no provider or an invalid selector (60_exceptions.md rules R214, R217, R219, R220). -/
def State.turnsAway (s : State) : Prop :=
  s.intLine = false ∨ s.iff1 = false ∨
  s.im = .im0 ∧ (s.provider = false ∨ (s.answerTo .provider).declined = true ∨
    (s.answerTo .provider).data &&& 0xC7 ≠ 0xC7) ∨
  s.im = .im2 ∧ (s.provider = false ∨ (s.answerTo .provider).declined = true)

/-! ### Accesses -/

/-- One memory read at `a` that answered `v`, recorded; plain memory answers what it holds. -/
def Loaded (a : Word) (v : Byte) (s t : State) : Prop :=
  t.trace = .memRead a v :: s.trace ∧ (s.plainAt a → v = s.byteAt a)

/-- One memory write of `v` at `a`, recorded; plain memory holds it afterwards. -/
def Stored (a : Word) (v : Byte) (s t : State) : Prop :=
  t.trace = .memWrite a v :: s.trace ∧ (s.plainAt a → t.byteAt a = v)

/-- Two reads, the low byte at `a` first, that make the word `v` (20_memory.md rules R38, R39). -/
def Loaded16 (a v : Word) (s t : State) : Prop :=
  t.trace = .memRead (a + 1) (hiByte v) :: .memRead a (loByte v) :: s.trace ∧
  (s.plainAt a → loByte v = s.byteAt a) ∧ (s.plainAt (a + 1) → hiByte v = s.byteAt (a + 1))

/-- Two writes of the word `v`, the low byte at `a` first. -/
def Stored16 (a v : Word) (s t : State) : Prop :=
  t.trace = .memWrite (a + 1) (hiByte v) :: .memWrite a (loByte v) :: s.trace ∧
  (s.plainAt a → t.byteAt a = loByte v) ∧ (s.plainAt (a + 1) → t.byteAt (a + 1) = hiByte v)

/-- One read at `a` that answered `v`, then one write of `r` there. -/
def Modified (a : Word) (v r : Byte) (s t : State) : Prop :=
  t.trace = .memWrite a r :: .memRead a v :: s.trace ∧
  (s.plainAt a → v = s.byteAt a ∧ t.byteAt a = r)

/-- The word `v` pushed: the high byte at SP-1 first, then the low byte at SP-2 (00_scope.md rule R10). -/
def Pushed (v : Word) (s t : State) : Prop :=
  t.sp = s.sp - 2 ∧
  t.trace = .memWrite (s.sp - 2) (loByte v) :: .memWrite (s.sp - 1) (hiByte v) :: s.trace ∧
  (s.plainAt (s.sp - 1) → t.byteAt (s.sp - 1) = hiByte v) ∧ (s.plainAt (s.sp - 2) → t.byteAt (s.sp - 2) = loByte v)

/-- The word `v` popped: the low byte at SP first. -/
def Popped (v : Word) (s t : State) : Prop := t.sp = s.sp + 2 ∧ Loaded16 s.sp v s t

/-! ### The arithmetic of the flags -/

/-- An even number of 1 bits (00_scope.md rule R8). -/
def evenOnes (v : Byte) : Bool := (List.range 8).countP (fun k => v.getLsbD k) % 2 == 0

/-- `SZP(v)` (41_arith_logic.md rule R113). -/
def SzpOf (v : Byte) (f : Flags) : Prop := f.s = v.getLsbD 7 ∧ f.z = decide (v = 0) ∧ f.pv = evenOnes v

/-- `XY(v)` (R112): a copy under Silicon, and nothing under Draw. -/
def XyOf (v : Byte) (s t : State) : Prop :=
  s.params.undocFlags = .silicon → t.regs.f.y = v.getLsbD 5 ∧ t.regs.f.x = v.getLsbD 3

/-- F after `r <- add8(a, b, c)` (R114). -/
def AddFlags (a b : Byte) (c : Bool) (r : Byte) (s t : State) : Prop :=
  r.toNat = (a.toNat + b.toNat + c.toNat) % 256 ∧
  t.regs.f.s = r.getLsbD 7 ∧ t.regs.f.z = decide (r = 0) ∧
  t.regs.f.h = decide ((a &&& 0x0F).toNat + (b &&& 0x0F).toNat + c.toNat > 0x0F) ∧
  t.regs.f.pv = decide (a.getLsbD 7 = b.getLsbD 7 ∧ r.getLsbD 7 ≠ a.getLsbD 7) ∧
  t.regs.f.n = false ∧ t.regs.f.c = decide (a.toNat + b.toNat + c.toNat > 0xFF) ∧ XyOf r s t

/-- F after `r <- sub8(a, b, c)` but for Y and X (R115). -/
def SubFlags (a b : Byte) (c : Bool) (r : Byte) (t : State) : Prop :=
  (r.toNat : Int) = ((a.toNat : Int) - b.toNat - c.toNat) % 256 ∧
  t.regs.f.s = r.getLsbD 7 ∧ t.regs.f.z = decide (r = 0) ∧
  t.regs.f.h = decide ((a &&& 0x0F).toNat < (b &&& 0x0F).toNat + c.toNat) ∧
  t.regs.f.pv = decide (a.getLsbD 7 ≠ b.getLsbD 7 ∧ r.getLsbD 7 ≠ a.getLsbD 7) ∧
  t.regs.f.n = true ∧ t.regs.f.c = decide (a.toNat < b.toNat + c.toNat)

/-- `logic(r, h)` (R118). -/
def LogicFlags (r : Byte) (h : Bool) (s t : State) : Prop :=
  SzpOf r t.regs.f ∧ t.regs.f.h = h ∧ t.regs.f.n = false ∧ t.regs.f.c = false ∧ XyOf r s t

/-- F after `r <- inc8(v)` (R116). -/
def IncFlags (v r : Byte) (s t : State) : Prop :=
  r.toNat = (v.toNat + 1) % 256 ∧ t.regs.f.s = r.getLsbD 7 ∧ t.regs.f.z = decide (r = 0) ∧
  t.regs.f.h = decide (v &&& 0x0F = 0x0F) ∧ t.regs.f.pv = decide (v = 0x7F) ∧ t.regs.f.n = false ∧
  t.regs.f.c = s.regs.f.c ∧ XyOf r s t

/-- F after `r <- dec8(v)` (R117). -/
def DecFlags (v r : Byte) (s t : State) : Prop :=
  r.toNat = (v.toNat + 255) % 256 ∧ t.regs.f.s = r.getLsbD 7 ∧ t.regs.f.z = decide (r = 0) ∧
  t.regs.f.h = decide (v &&& 0x0F = 0x00) ∧ t.regs.f.pv = decide (v = 0x80) ∧ t.regs.f.n = true ∧
  t.regs.f.c = s.regs.f.c ∧ XyOf r s t

/-- F after `r <- add16(a, b)` (R119). -/
def Add16Flags (a b r : Word) (s t : State) : Prop :=
  r.toNat = (a.toNat + b.toNat) % 65536 ∧
  t.regs.f.h = decide ((a &&& 0x0FFF).toNat + (b &&& 0x0FFF).toNat > 0x0FFF) ∧ t.regs.f.n = false ∧
  t.regs.f.c = decide (a.toNat + b.toNat > 0xFFFF) ∧ XyOf (hiByte r) s t ∧
  t.regs.f.s = s.regs.f.s ∧ t.regs.f.z = s.regs.f.z ∧ t.regs.f.pv = s.regs.f.pv

/-- F after `r <- adc16(a, b, c)` (R120). -/
def Adc16Flags (a b : Word) (c : Bool) (r : Word) (s t : State) : Prop :=
  r.toNat = (a.toNat + b.toNat + c.toNat) % 65536 ∧ t.regs.f.s = r.getLsbD 15 ∧ t.regs.f.z = decide (r = 0) ∧
  t.regs.f.h = decide ((a &&& 0x0FFF).toNat + (b &&& 0x0FFF).toNat + c.toNat > 0x0FFF) ∧
  t.regs.f.pv = decide (a.getLsbD 15 = b.getLsbD 15 ∧ r.getLsbD 15 ≠ a.getLsbD 15) ∧ t.regs.f.n = false ∧
  t.regs.f.c = decide (a.toNat + b.toNat + c.toNat > 0xFFFF) ∧ XyOf (hiByte r) s t

/-- F after `r <- sbc16(a, b, c)` (R121). -/
def Sbc16Flags (a b : Word) (c : Bool) (r : Word) (s t : State) : Prop :=
  (r.toNat : Int) = ((a.toNat : Int) - b.toNat - c.toNat) % 65536 ∧
  t.regs.f.s = r.getLsbD 15 ∧ t.regs.f.z = decide (r = 0) ∧
  t.regs.f.h = decide ((a &&& 0x0FFF).toNat < (b &&& 0x0FFF).toNat + c.toNat) ∧
  t.regs.f.pv = decide (a.getLsbD 15 ≠ b.getLsbD 15 ∧ r.getLsbD 15 ≠ a.getLsbD 15) ∧ t.regs.f.n = true ∧
  t.regs.f.c = decide (a.toNat < b.toNat + c.toNat) ∧ XyOf (hiByte r) s t

/-- The byte whose decimal digits, packed, are those of a number below 100. -/
def packedBcd (n : Nat) : Byte := BitVec.ofNat 8 (n / 10 * 16 + n % 10)

/-! ### The operand forms of the arithmetic instructions (R123) -/

/-- `alu[k]` (30_encoding.md rule R57). -/
inductive AluOp where
  | add | adc | sub | sbc | and | xor | or | cp
  deriving DecidableEq, Repr

/-- The second operand's form. -/
inductive AluForm where
  | opnd (o : Opnd8)
  | imm (n : Byte)
  | idxMem (i : Idx) (d : Byte)
  | half (i : Idx) (h : Half)
  deriving DecidableEq, Repr

/-- The instruction of an operation and a form. -/
def AluForm.instr : AluForm → AluOp → Instr
  | .opnd o, .add => .addAR8 o
  | .opnd o, .adc => .adcAR8 o
  | .opnd o, .sub => .subR8 o
  | .opnd o, .sbc => .sbcAR8 o
  | .opnd o, .and => .andR8 o
  | .opnd o, .xor => .xorR8 o
  | .opnd o, .or => .orR8 o
  | .opnd o, .cp => .cpR8 o
  | .imm n, .add => .addAN n
  | .imm n, .adc => .adcAN n
  | .imm n, .sub => .subN n
  | .imm n, .sbc => .sbcAN n
  | .imm n, .and => .andN n
  | .imm n, .xor => .xorN n
  | .imm n, .or => .orN n
  | .imm n, .cp => .cpN n
  | .idxMem i d, .add => .addAIdxMem i d
  | .idxMem i d, .adc => .adcAIdxMem i d
  | .idxMem i d, .sub => .subIdxMem i d
  | .idxMem i d, .sbc => .sbcAIdxMem i d
  | .idxMem i d, .and => .andIdxMem i d
  | .idxMem i d, .xor => .xorIdxMem i d
  | .idxMem i d, .or => .orIdxMem i d
  | .idxMem i d, .cp => .cpIdxMem i d
  | .half i h, .add => .addAHalf i h
  | .half i h, .adc => .adcAHalf i h
  | .half i h, .sub => .subHalf i h
  | .half i h, .sbc => .sbcAHalf i h
  | .half i h, .and => .andHalf i h
  | .half i h, .xor => .xorHalf i h
  | .half i h, .or => .orHalf i h
  | .half i h, .cp => .cpHalf i h

/-- The read of the second operand gave `v`, with the bus access of its form and no other. -/
def AluForm.operandIs (form : AluForm) (v : Byte) (s t : State) : Prop :=
  match form with
  | .opnd (.reg r) => v = s.reg r ∧ t.trace = s.trace
  | .opnd .hlMem => Loaded s.hl v s t
  | .imm n => v = n ∧ t.trace = s.trace
  | .idxMem i d => Loaded (s.idx i + signExtend16 d) v s t
  | .half i h => v = s.half i h ∧ t.trace = s.trace

/-- The instruction executes under either setting of `UNDOC_OPS`, or the setting is Silicon (30_encoding.md rule R68). -/
def Executes (i : Instr) (s : State) : Prop := i.undocumented = false ∨ s.params.undocOps = .silicon

/-! ### The operand forms of `INC`, `DEC` and the CB map (R132, 42_rotate_bit.md rule R154) -/

/-- Where a read-modify-write instruction acts. -/
inductive RmwForm where
  | reg (r : Reg8)
  | hlMem
  | idxMem (i : Idx) (d : Byte)
  | idxCopy (i : Idx) (d : Byte) (z : Reg8)
  | half (i : Idx) (h : Half)
  deriving DecidableEq, Repr

/-- `v` was read there and `r` written back, with the bus accesses of the form and no other; the other half of an index
register is kept (10_state.md rule R18). -/
def RmwForm.replaced (form : RmwForm) (v r : Byte) (s t : State) : Prop :=
  match form with
  | .reg q => v = s.reg q ∧ t.reg q = r ∧ t.trace = s.trace
  | .hlMem => Modified s.hl v r s t
  | .idxMem i d => Modified (s.idx i + signExtend16 d) v r s t
  | .idxCopy i d z => Modified (s.idx i + signExtend16 d) v r s t ∧ t.reg z = r
  | .half i h =>
    v = s.half i h ∧ t.half i h = r ∧ (∀ g, g ≠ h → t.half i g = s.half i g) ∧ t.trace = s.trace

/-- `v` was read there and nothing written. -/
def RmwForm.tested (form : RmwForm) (v : Byte) (s t : State) : Prop :=
  match form with
  | .reg q => v = s.reg q ∧ t.trace = s.trace
  | .hlMem => Loaded s.hl v s t
  | .idxMem i d | .idxCopy i d _ => Loaded (s.idx i + signExtend16 d) v s t
  | .half i h => v = s.half i h ∧ t.trace = s.trace

/-- `INC s`, where it has the form (R132). -/
def RmwForm.inc : RmwForm → Option Instr
  | .reg r => some (.incR8 (.reg r))
  | .hlMem => some (.incR8 .hlMem)
  | .idxMem i d => some (.incIdxMem i d)
  | .half i h => some (.incHalf i h)
  | .idxCopy _ _ _ => none

/-- `DEC s`, where it has the form (R133). -/
def RmwForm.dec : RmwForm → Option Instr
  | .reg r => some (.decR8 (.reg r))
  | .hlMem => some (.decR8 .hlMem)
  | .idxMem i d => some (.decIdxMem i d)
  | .half i h => some (.decHalf i h)
  | .idxCopy _ _ _ => none

/-- `rot[k] s`, where it has the form (R155 to R162). -/
def RmwForm.rot : RmwForm → Rotation → Option Instr
  | .reg r, .rlc => some (.rlcR8 (.reg r))
  | .reg r, .rrc => some (.rrcR8 (.reg r))
  | .reg r, .rl => some (.rlR8 (.reg r))
  | .reg r, .rr => some (.rrR8 (.reg r))
  | .reg r, .sla => some (.slaR8 (.reg r))
  | .reg r, .sra => some (.sraR8 (.reg r))
  | .reg r, .sll => some (.sllR8 (.reg r))
  | .reg r, .srl => some (.srlR8 (.reg r))
  | .hlMem, .rlc => some (.rlcR8 .hlMem)
  | .hlMem, .rrc => some (.rrcR8 .hlMem)
  | .hlMem, .rl => some (.rlR8 .hlMem)
  | .hlMem, .rr => some (.rrR8 .hlMem)
  | .hlMem, .sla => some (.slaR8 .hlMem)
  | .hlMem, .sra => some (.sraR8 .hlMem)
  | .hlMem, .sll => some (.sllR8 .hlMem)
  | .hlMem, .srl => some (.srlR8 .hlMem)
  | .idxMem i d, .rlc => some (.rlcIdxMem i d)
  | .idxMem i d, .rrc => some (.rrcIdxMem i d)
  | .idxMem i d, .rl => some (.rlIdxMem i d)
  | .idxMem i d, .rr => some (.rrIdxMem i d)
  | .idxMem i d, .sla => some (.slaIdxMem i d)
  | .idxMem i d, .sra => some (.sraIdxMem i d)
  | .idxMem i d, .sll => some (.sllIdxMem i d)
  | .idxMem i d, .srl => some (.srlIdxMem i d)
  | .idxCopy i d z, .rlc => some (.rlcIdxCopy i d z)
  | .idxCopy i d z, .rrc => some (.rrcIdxCopy i d z)
  | .idxCopy i d z, .rl => some (.rlIdxCopy i d z)
  | .idxCopy i d z, .rr => some (.rrIdxCopy i d z)
  | .idxCopy i d z, .sla => some (.slaIdxCopy i d z)
  | .idxCopy i d z, .sra => some (.sraIdxCopy i d z)
  | .idxCopy i d z, .sll => some (.sllIdxCopy i d z)
  | .idxCopy i d z, .srl => some (.srlIdxCopy i d z)
  | .half _ _, _ => none

/-- `BIT b,s`, where it has the form (R163). -/
def RmwForm.bit (b : Fin 8) : RmwForm → Option Instr
  | .reg r => some (.bitR8 b (.reg r))
  | .hlMem => some (.bitR8 b .hlMem)
  | .idxMem i d => some (.bitIdxMem b i d)
  | .idxCopy i d z => some (.bitIdxDup b i d z)
  | .half _ _ => none

/-- `RES b,s`, where it has the form (R164). -/
def RmwForm.res (b : Fin 8) : RmwForm → Option Instr
  | .reg r => some (.resR8 b (.reg r))
  | .hlMem => some (.resR8 b .hlMem)
  | .idxMem i d => some (.resIdxMem b i d)
  | .idxCopy i d z => some (.resIdxCopy b i d z)
  | .half _ _ => none

/-- `SET b,s`, where it has the form (R165). -/
def RmwForm.set (b : Fin 8) : RmwForm → Option Instr
  | .reg r => some (.setR8 b (.reg r))
  | .hlMem => some (.setR8 b .hlMem)
  | .idxMem i d => some (.setIdxMem b i d)
  | .idxCopy i d z => some (.setIdxCopy b i d z)
  | .half _ _ => none

/-- The result of a rotate or shift of `v` and the carry it leaves, as numbers (R155 to R162). -/
def rotated (kind : Rotation) (v carry : Nat) : Nat × Nat :=
  match kind with
  | .rlc => (2 * v % 256 + v / 128, v / 128)
  | .rrc => (v / 2 + 128 * (v % 2), v % 2)
  | .rl => (2 * v % 256 + carry, v / 128)
  | .rr => (v / 2 + 128 * carry, v % 2)
  | .sla => (2 * v % 256, v / 128)
  | .sra => (v / 2 + 128 * (v / 128), v % 2)
  | .sll => (2 * v % 256 + 1, v / 128)
  | .srl => (v / 2, v % 2)

/-! ### The block instructions -/

/-- One execution of a block transfer (40_load_exchange.md rules R107, R110): `delta` moves HL and DE. -/
def BlockMoved (delta : Word) (repeats : Bool) (s t : State) : Prop :=
  let again := repeats = true ∧ s.bc ≠ 1
  ∃ v, t.trace = .memWrite s.de v :: .memRead s.hl v :: s.trace ∧
    (s.plainAt s.hl → v = s.byteAt s.hl) ∧ (s.plainAt s.de → t.byteAt s.de = v) ∧
    t.hl = s.hl + delta ∧ t.de = s.de + delta ∧ t.bc = s.bc - 1 ∧
    t.regs.f.h = false ∧ t.regs.f.n = false ∧ t.regs.f.pv = decide (s.bc ≠ 1) ∧
    (s.params.undocFlags = .silicon → ¬again →
      t.regs.f.y = (v + s.regs.a).getLsbD 1 ∧ t.regs.f.x = (v + s.regs.a).getLsbD 3) ∧
    t.regs.f.s = s.regs.f.s ∧ t.regs.f.z = s.regs.f.z ∧ t.regs.f.c = s.regs.f.c ∧ t.regs.a = s.regs.a ∧
    (again → t.pc = s.pc - 2) ∧ (¬again → t.pc = s.pc)

/-- One execution of a block compare (41_arith_logic.md rules R145, R148): `delta` moves HL. -/
def BlockCompared (delta : Word) (repeats : Bool) (s t : State) : Prop :=
  ∃ v, Loaded s.hl v s t ∧
    let r := s.regs.a - v
    let again := repeats = true ∧ s.bc ≠ 1 ∧ s.regs.a ≠ v
    t.hl = s.hl + delta ∧ t.bc = s.bc - 1 ∧
    t.regs.f.s = r.getLsbD 7 ∧ t.regs.f.z = decide (s.regs.a = v) ∧
    t.regs.f.h = decide ((s.regs.a &&& 0x0F).toNat < (v &&& 0x0F).toNat) ∧ t.regs.f.n = true ∧
    t.regs.f.pv = decide (s.bc ≠ 1) ∧
    (s.params.undocFlags = .silicon → ¬again →
      let m := r - BitVec.ofNat 8 t.regs.f.h.toNat
      t.regs.f.y = m.getLsbD 1 ∧ t.regs.f.x = m.getLsbD 3) ∧
    t.regs.a = s.regs.a ∧ t.regs.f.c = s.regs.f.c ∧
    (again → t.pc = s.pc - 2) ∧ (¬again → t.pc = s.pc)

/-- `blockioFlags(v, k)` and the repeat (44_io.md rules R184, R193): `b` is B after the decrement. -/
def BlockIoEnd (v b : Byte) (k : Nat) (repeats : Bool) (s t : State) : Prop :=
  let again := repeats = true ∧ b ≠ 0
  t.regs.f.z = decide (b = 0) ∧
  (s.params.undocFlags = .silicon →
    t.regs.f.s = b.getLsbD 7 ∧ t.regs.f.n = v.getLsbD 7 ∧ t.regs.f.c = decide (k > 255) ∧
    (¬again → t.regs.f.h = decide (k > 255) ∧ t.regs.f.y = b.getLsbD 5 ∧ t.regs.f.x = b.getLsbD 3 ∧
      t.regs.f.pv = evenOnes (BitVec.ofNat 8 (k % 8) ^^^ b))) ∧
  (again → t.pc = s.pc - 2) ∧ (¬again → t.pc = s.pc)

/-- One execution of a block input (R191 to R194): `delta` moves HL, and C + `step` enters k. -/
def BlockRead (delta : Word) (step : Byte) (repeats : Bool) (s t : State) : Prop :=
  ∃ v, t.trace = .memWrite s.hl v :: .ioRead s.bc v :: s.trace ∧ (s.plainAt s.hl → t.byteAt s.hl = v) ∧
    t.regs.b = s.regs.b - 1 ∧ t.regs.c = s.regs.c ∧ t.hl = s.hl + delta ∧
    BlockIoEnd v (s.regs.b - 1) (v.toNat + (s.regs.c + step).toNat) repeats s t

/-- One execution of a block output (R195 to R198): `delta` moves HL, whose new low byte enters k. -/
def BlockWritten (delta : Word) (repeats : Bool) (s t : State) : Prop :=
  ∃ v, t.trace = .ioWrite (joinBytes (s.regs.b - 1) s.regs.c) v :: .memRead s.hl v :: s.trace ∧
    (s.plainAt s.hl → v = s.byteAt s.hl) ∧
    t.regs.b = s.regs.b - 1 ∧ t.regs.c = s.regs.c ∧ t.hl = s.hl + delta ∧
    BlockIoEnd v (s.regs.b - 1) (v.toNat + (loByte (s.hl + delta)).toNat) repeats s t

/-! ### Acceptance and the run loop -/

/-- The address a handler returns to (60_exceptions.md rules R215, R222, R224). -/
def State.returnAddress (s : State) : Word := if s.halted then s.pc + 1 else s.pc

/-- What every acceptance does to the register context, the stack and memory (R215, R225), given where it goes and what
IFF2 becomes. R counts one, after a free value of its low bits if the core was halted (10_state.md rule R26). -/
def Accepted (target : Word) (iff2 : Bool) (s t : State) : Prop :=
  t.pc = target ∧ t.sp = s.sp - 2 ∧ t.iff1 = false ∧ t.iff2 = iff2 ∧ t.halted = false ∧
  (s.params.rModel = .count → t.r.getLsbD 7 = s.r.getLsbD 7 ∧ (s.halted = false → t.r = advanceR s.r 1)) ∧
  (s.plainAt (s.sp - 1) → t.byteAt (s.sp - 1) = hiByte s.returnAddress) ∧
  (s.plainAt (s.sp - 2) → t.byteAt (s.sp - 2) = loByte s.returnAddress) ∧
  (∀ a, a ≠ s.sp - 1 → a ≠ s.sp - 2 → t.byteAt a = s.byteAt a) ∧
  KeptOutside [.sp, .pc, .r, .iff1, .iff2, .halted] s t

/-- The two lines and the forbidden call after one answer of the environment and nothing else that could change them
(20_memory.md rule R51, 60_exceptions.md rules R212, R235). -/
def LinesAfter (answer : Config.Answer) (s t : State) : Prop :=
  t.intLine = answer.line.getD s.intLine ∧ t.nmiLatch = (s.nmiLatch || answer.nmi) ∧
  t.violation = s.violation.or answer.call

/-- The two lines and the forbidden call are as they were. -/
def LinesKept (s t : State) : Prop :=
  t.intLine = s.intLine ∧ t.nmiLatch = s.nmiLatch ∧ t.violation = s.violation

/-- The two writes of the push of an acceptance, newest first. -/
def State.pushWrites (s : State) : List Config.BusEvent :=
  [.memWrite (s.sp - 2) (loByte s.returnAddress), .memWrite (s.sp - 1) (hiByte s.returnAddress)]

/-- The byte at PC, read as an opcode, is `b`, and its read makes no forbidden host call: in plain memory, or as a device
there answers. -/
def State.opcodeAtPc (s : State) (b : Byte) : Prop :=
  (s.plainAt s.pc ∧ s.byteAt s.pc = b) ∨
  (s.isDevice s.pc = true ∧ (s.answerTo (.memRead s.pc)).data = b ∧ (s.answerTo (.memRead s.pc)).call = none)

/-- What a `Run` returns when it goes on from one that has counted `done`. -/
def countedFrom (done : Nat) (o : Host.Outcome (State × Nat) Fault Refusal) : Host.Outcome (State × Nat) Fault Refusal :=
  match o with
  | .next (t, count) => .next (t, done + count)
  | .fault f => .fault f
  | .refused r => .refused r

end Sys2Proof.Machine
end

