-- ==== Sys2Proof/Certificates/Slice0/Obligations.lean ====
section
/-!
DEFINITION. The statements for the provers. A statement about an instruction is about `exec` on the state its fetch left,
so PC is already past it (30_encoding.md rule R53); `StepRunsTheDecodedInstruction` carries it to `step`.
-/

section Slice0

open Sys2Proof Sys2Proof.Machine

/-! ### Encoding -/

/-- The decoder gives back every well-formed instruction from its encoding, with every operand, and leaves the bytes
after it (30_encoding.md R53, R55, R58, R59 to R65). -/
def Obligations.DecodeUndoesEncode : Prop :=
  ∀ (i : Instr) (rest : List Byte), i.wf = true → i.mayBefore rest → decode (i.encode ++ rest) = .ok (i, rest)

/-- R69: every byte sequence that does not end inside its first instruction decodes, to a well-formed instruction whose
encoding is its bytes; the only rejection is a sequence that ends too early, and none of four bytes or more does. -/
def Obligations.EveryByteSequenceDecodes : Prop :=
  (∀ bytes : List Byte, 4 ≤ bytes.length → ∃ i rest, decode bytes = .ok (i, rest)) ∧
  (∀ (bytes : List Byte) (i : Instr) (rest : List Byte), decode bytes = .ok (i, rest) →
    i.wf = true ∧ bytes = i.encode ++ rest ∧ i.mayBefore rest)

/-- R54, R70: an instruction has one to four bytes, and its first two bytes tell how many: by the base map's format
column, `CB` 2, `ED` 4 for the eight `nn` entries and 2 otherwise, `DD` and `FD` 1 if ignored, 4 before `CB`. -/
def Obligations.LengthFromFirstTwoBytes : Prop :=
  ∀ b0 b1 b2 b3 : Byte,
    let n := (decodeBytes b0 b1 b2 b3).encode.length
    instrLength b0 b1 = n ∧ 1 ≤ n ∧ n ≤ 4 ∧
    (b0 = 0xCB → n = 2) ∧
    (b0 = 0xED → n = if b1 ∈ [0x43, 0x4B, 0x53, 0x5B, 0x63, 0x6B, 0x73, 0x7B] then 4 else 2) ∧
    (b0 = 0xDD ∨ b0 = 0xFD → (n = 1 ↔ ignoredBy b1 = true) ∧ (b1 = 0xCB → n = 4)) ∧
    (b0 ≠ 0xCB → b0 ≠ 0xED → b0 ≠ 0xDD → b0 ≠ 0xFD → n ≤ 3)

/-- R67: the encodings gated by `UNDOC_OPS` are exactly those the rule lists byte by byte; the ignored prefix and the
undefined `ED` entries are not gated. -/
def Obligations.GatedEncodingsAreTheListed : Prop :=
  (∀ b0 b1 b2 b3 : Byte, (decodeBytes b0 b1 b2 b3).undocumented = gatedBytes b0 b1 b3) ∧
  (∀ i, (Instr.ignoredPrefix i).undocumented = false) ∧ (∀ op, (Instr.edUndefined op).undocumented = false)

/-- Some words, written out bit by bit from the maps R59 to R64, decode to the instructions they stand for. -/
def Obligations.WordsDecodeAsTheMapsSay : Prop :=
  decodeBytes 0b01111000 0 0 0 = .ldRR .a .b ∧
  decodeBytes 0b00110001 0b11110000 0b11111111 0 = .ldRpNn .sp 0xFFF0 ∧
  decodeBytes 0b10010110 0 0 0 = .subR8 .hlMem ∧
  decodeBytes 0b00111000 0b11111100 0 0 = .jrCc .c 0xFC ∧
  decodeBytes 0b11001011 0b01111111 0 0 = .bitR8 7 (.reg .a) ∧
  decodeBytes 0b11101101 0b10110000 0 0 = .ldir ∧
  decodeBytes 0b11101101 0b01110011 0b00000000 0b10000000 = .ldNnMemRp .sp 0x8000 ∧
  decodeBytes 0b11011101 0b00110110 0b00000001 0b00010000 = .ldIdxMemN .ix 0x01 0x10 ∧
  decodeBytes 0b11111101 0b11001011 0b00000011 0b11111110 = .setIdxMem 7 .iy 0x03 ∧
  decodeBytes 0b11011101 0b11101011 0 0 = .ignoredPrefix .ix

/-! ### The machine -/

/-- A step of a live core that is not halted and has no request to accept runs the instruction its bytes at PC, in plain
memory, decode to, on the state the fetch left (`State.afterFetch`: R20, R26, R37, R53, R65, R70), and ends in the fault
of a forbidden host call if a callback made one meanwhile (R235). The index of free values is the model's own (log 8). -/
def Obligations.StepRunsTheDecodedInstruction : Prop :=
  ∀ (s : State) (i : Instr) (rest : List Byte),
    s.runsNext → s.plainFetch → decode (s.bytesAt s.pc 4) = .ok (i, rest) →
    step s = endOfStep (exec i (s.nextDraw.afterFetch i))

/-- Every step keeps the invariant: plain memory in its canonical form, the Bus there exactly when `Init` has been done
(10_state.md R32, 20_memory.md R43), and no forbidden host call standing, since a step in which one is made faults
(R235). The canonical form is the model's own (log 2), and so is the field that holds the call (log 13). -/
def Obligations.EveryStepKeepsTheInvariant : Prop :=
  ∀ s t : State, s.Inv → step s = .next t → t.Inv

/-- The state after reset, with the Bus and the memory the model chose for it (logs 2, 10), meets the invariant. -/
def Obligations.ResetMeetsTheInvariant : Prop := State.reset.Inv

/-- A step of a live core, under Silicon, completes or ends in the fault of a forbidden host call that a callback made;
no step of a live core faults otherwise, and it is refused only for a gated encoding under `UNDOC_OPS = Refuse` (R67 to
R69, R235). Where the environment makes no such call in the at most seven accesses of a step, every step of a live core
under Silicon completes, whatever memory holds. That no step faults with `UnwrittenRead` is the model's choice, not the
spec's (R209; log 1: every general register holds a value); that a callback's forbidden call ends the step it is made
in, and how such a call is held, are log 13's. -/
def Obligations.EveryInitialisedStepCompletes : Prop :=
  ∀ s : State, s.live →
    (s.params.undocOps = .silicon →
      (∃ t, step s = .next t) ∨ ∃ call, step s = .fault (.preconditionViolation call)) ∧
    (∀ f, step s = .fault f → ∃ call, f = .preconditionViolation call) ∧
    (∀ r, step s = .refused r → s.params.undocOps = .refuse ∧ ∃ pc key, r = .undocumentedOpcode pc key) ∧
    (s.quiet 7 → (∀ f, step s ≠ .fault f) ∧ (s.params.undocOps = .silicon → ∃ t, step s = .next t))

/-- R68: a gated encoding is refused under `UNDOC_OPS = Refuse`, with the address of its first byte and its key bytes
(R209), and completes under Silicon; every other instruction completes under both settings. -/
def Obligations.RefusedExactlyWhenGatedAndRefusing : Prop :=
  ∀ (i : Instr) (s : State),
    (i.undocumented = true ∧ s.params.undocOps = .refuse →
      exec i s = .refused (.undocumentedOpcode (s.pc - BitVec.ofNat 16 i.encode.length) i.keyBytes)) ∧
    (Executes i s → ∃ t, exec i s = .next t)

/-- The frame of every instruction over the register context: a cell its rule does not write is unchanged, each flag a
cell of its own. The cells are listed by `Instr.writes` (files 40 to 45). -/
def Obligations.CellsAnInstructionDoesNotWriteAreKept : Prop :=
  ∀ (i : Instr) (s t : State), exec i s = .next t → KeptOutside i.writes s t

/-- The frame of every instruction over memory: a byte outside the addresses it stores to, which `Instr.stores` computes
from the state it runs on, is unchanged. -/
def Obligations.BytesAnInstructionDoesNotStoreAreKept : Prop :=
  ∀ (i : Instr) (s t : State) (a : Word), exec i s = .next t → a ∉ i.stores s → t.byteAt a = s.byteAt a

/-- The rest of the state: no instruction changes the administrative state (R32), and the accesses it makes are appended
to those before (R37). The other clauses are about the model's own fields and choices: the mark of the control cells (log
1), the open parameters (log 7) and the index of free values (log 8) are unchanged; and where no device is touched and no
port used, so are the two lines (log 5: only a device's or a provider's answer makes the calls of R51 and R212), the
pending answers (log 4) and the forbidden call held (log 13). -/
def Obligations.LinesAndBusAreKept : Prop :=
  ∀ (i : Instr) (s t : State), exec i s = .next t →
    t.initialised = s.initialised ∧ t.bus = s.bus ∧ t.provider = s.provider ∧
    t.controlWritten = s.controlWritten ∧ t.params = s.params ∧ t.draws = s.draws ∧
    (∃ events, t.trace = events ++ s.trace) ∧
    (i.usesPort = false → (∀ a, s.plainAt a) → LinesKept s t ∧ t.answers = s.answers)

/-- R17: no instruction but `EX AF,AF'` and `EXX` reads or writes the alternate bank: with any other contents of it the
outcome is the same, and the bank is as it was. -/
def Obligations.OnlyExchangesUseTheAlternateBank : Prop :=
  ∀ (i : Instr) (s t : State) (g : Bank), i ≠ .exAfAf → i ≠ .exx → exec i s = .next t →
    t.alt = s.alt ∧ exec i { s with alt := g } = .next { t with alt := g }

/-- R26: R is read only by `LD A,R`: the effect of no other instruction depends on it, and only `LD R,A` writes it. -/
def Obligations.OnlyLdARReadsTheRefreshRegister : Prop :=
  ∀ (i : Instr) (s t : State) (v : Byte), i ≠ .ldAR → i ≠ .ldRA → exec i s = .next t →
    t.r = s.r ∧ exec i { s with r := v } = .next { t with r := v }

/-- R51, R212: an instruction does not read the two lines: with any other values of them it does the same to everything
else. -/
def Obligations.InstructionsDoNotReadTheLines : Prop :=
  ∀ (i : Instr) (s t : State) (nmi line : Bool), exec i s = .next t →
    ∃ nmi' line', exec i { s with nmiLatch := nmi, intLine := line } = .next { t with nmiLatch := nmi', intLine := line' }

/-- The values the spec gives the machine right after reset (10_state.md R33). -/
def Obligations.ResetLeavesTheSpecifiedValues : Prop :=
  State.reset.pc = 0x0000 ∧ State.reset.iff1 = false ∧ State.reset.iff2 = false ∧ State.reset.im = .im0 ∧
  State.reset.i = 0x00 ∧ State.reset.r = 0x00 ∧ State.reset.halted = false ∧ State.reset.nmiLatch = false ∧
  State.reset.intLine = false

/-- R244: `Reset()` writes the listed cells, keeps every other one, and does not access the Bus; it is not allowed
while a `Run` is in progress, and does not need `Init`. After it the control cells count as written (R33; log 1). -/
def Obligations.ResetCallWritesTheListedCells : Prop :=
  ∀ s : State,
    hostCall true .reset s = .fault (.preconditionViolation .reset) ∧
    ∃ t, hostCall false .reset s = .next (t, .nothing) ∧
      t.pc = 0x0000 ∧ t.iff1 = false ∧ t.iff2 = false ∧ t.im = .im0 ∧ t.i = 0x00 ∧ t.r = 0x00 ∧ t.halted = false ∧
      t.nmiLatch = false ∧ t.intLine = false ∧ t.controlWritten = true ∧
      t.regs = s.regs ∧ t.alt = s.alt ∧ t.ix = s.ix ∧ t.iy = s.iy ∧ t.sp = s.sp ∧
      t.initialised = s.initialised ∧ t.bus = s.bus ∧ t.provider = s.provider ∧ t.mem = s.mem ∧ t.trace = s.trace

/-- R65: a `DD` or `FD` byte before a byte that is no entry of its map is an instruction of its own: PC ends at that
byte, which is read as look-ahead, R counts one fetch, and no other cell, line or byte changes. -/
def Obligations.IgnoredPrefixIsOneByteLong : Prop :=
  ∀ (s : State) (i : Idx), s.runsNext → s.plainFetch → s.byteAt s.pc = i.code →
    ignoredBy (s.byteAt (s.pc + 1)) = true →
    ∃ t, step s = .next t ∧ t.pc = s.pc + 1 ∧
      t.trace = .memRead (s.pc + 1) (s.byteAt (s.pc + 1)) :: .memRead s.pc i.code :: s.trace ∧
      (s.params.rModel = .count → t.r = advanceR s.r 1) ∧ KeptOutside [.pc, .r] s t ∧ t.mem = s.mem ∧
      t.nmiLatch = s.nmiLatch ∧ t.intLine = s.intLine

/-- R66: an undefined `ED` entry is a no-op of two bytes: PC advances by 2, R counts 2 fetches, and no other cell,
line or byte changes. -/
def Obligations.UndefinedEdIsATwoByteNoOp : Prop :=
  ∀ (s : State) (op : Byte), s.runsNext → s.plainFetch → s.byteAt s.pc = 0xED → s.byteAt (s.pc + 1) = op →
    undefinedEd op = true →
    ∃ t, step s = .next t ∧ t.pc = s.pc + 2 ∧
      t.trace = .memRead (s.pc + 1) op :: .memRead s.pc 0xED :: s.trace ∧
      (s.params.rModel = .count → t.r = advanceR s.r 2) ∧ KeptOutside [.pc, .r] s t ∧ t.mem = s.mem ∧
      t.nmiLatch = s.nmiLatch ∧ t.intLine = s.intLine

/-- R26, when `R_MODEL = Count`: a step that runs an instruction other than `LD R,A` keeps bit 7 of R and advances the
other bits, modulo 128, by the opcode fetches that count. -/
def Obligations.RefreshCounterKeepsItsTopBit : Prop :=
  ∀ (s : State) (i : Instr) (rest : List Byte) (t : State),
    s.runsNext → s.plainFetch → s.params.rModel = .count →
    decode (s.bytesAt s.pc 4) = .ok (i, rest) → i ≠ .ldRA → step s = .next t →
    t.r.getLsbD 7 = s.r.getLsbD 7 ∧
    t.r.toNat % 128 = (s.r.toNat + opcodeFetches (s.byteAt s.pc) (s.byteAt (s.pc + 1))) % 128

/-! ### Loads, the stack, exchanges, block transfer (40_load_exchange.md) -/

/-- The 8-bit loads into a register (R74 to R77, R82, R84): the register holds the source, read with one access if it is
in memory and none if not. -/
def Obligations.ByteLoadsFillTheRegister : Prop :=
  ∀ s : State,
    (∀ y z, ∃ t, exec (.ldRR y z) s = .next t ∧ t.reg y = s.reg z ∧ t.trace = s.trace) ∧
    (∀ y n, ∃ t, exec (.ldRN y n) s = .next t ∧ t.reg y = n ∧ t.trace = s.trace) ∧
    (∀ y, ∃ t, exec (.ldRHlMem y) s = .next t ∧ Loaded s.hl (t.reg y) s t) ∧
    (∀ y i d, ∃ t, exec (.ldRIdxMem y i d) s = .next t ∧ Loaded (s.idx i + signExtend16 d) (t.reg y) s t) ∧
    (∃ t, exec (.ldARpMem .bc) s = .next t ∧ Loaded s.bc t.regs.a s t) ∧
    (∃ t, exec (.ldARpMem .de) s = .next t ∧ Loaded s.de t.regs.a s t) ∧
    (∀ nn, ∃ t, exec (.ldANnMem nn) s = .next t ∧ Loaded nn t.regs.a s t)

/-- The 8-bit stores (R78 to R81, R83, R85): one write of the source at the destination's address. -/
def Obligations.ByteStoresFillTheByte : Prop :=
  ∀ s : State,
    (∀ z, ∃ t, exec (.ldHlMemR z) s = .next t ∧ Stored s.hl (s.reg z) s t) ∧
    (∀ i d z, ∃ t, exec (.ldIdxMemR i d z) s = .next t ∧ Stored (s.idx i + signExtend16 d) (s.reg z) s t) ∧
    (∀ n, ∃ t, exec (.ldHlMemN n) s = .next t ∧ Stored s.hl n s t) ∧
    (∀ i d n, ∃ t, exec (.ldIdxMemN i d n) s = .next t ∧ Stored (s.idx i + signExtend16 d) n s t) ∧
    (∃ t, exec (.ldRpMemA .bc) s = .next t ∧ Stored s.bc s.regs.a s t) ∧
    (∃ t, exec (.ldRpMemA .de) s = .next t ∧ Stored s.de s.regs.a s t) ∧
    (∀ nn, ∃ t, exec (.ldNnMemA nn) s = .next t ∧ Stored nn s.regs.a s t)

/-- The loads with halves of an index register (R86, R87), under `UNDOC_OPS = Silicon`: the destination holds the
source, and the other half of the index register is unchanged. -/
def Obligations.HalfLoadsKeepTheOtherHalf : Prop :=
  ∀ (s : State) (i : Idx), s.params.undocOps = .silicon →
    (∀ y z, ∃ t, exec (.ldXX i y z) s = .next t ∧ t.regX i y = s.regX i z ∧
      (y ≠ .idxH → t.half i .hi = s.half i .hi) ∧ (y ≠ .idxL → t.half i .lo = s.half i .lo)) ∧
    (∀ n, ∃ t, exec (.ldHalfN i .hi n) s = .next t ∧ t.half i .hi = n ∧ t.half i .lo = s.half i .lo) ∧
    (∀ n, ∃ t, exec (.ldHalfN i .lo n) s = .next t ∧ t.half i .lo = n ∧ t.half i .hi = s.half i .hi)

/-- The 16-bit loads (R88 to R92, R96, R97): the pair holds the immediate, the register, or the word at `nn`, its low
byte read first from `nn` and its high byte from `nn+1` modulo 2^16. -/
def Obligations.WordLoadsFillThePair : Prop :=
  ∀ s : State,
    (∀ p nn, ∃ t, exec (.ldRpNn p nn) s = .next t ∧ t.pair p = nn ∧ t.trace = s.trace) ∧
    (∀ i nn, ∃ t, exec (.ldIdxNn i nn) s = .next t ∧ t.idx i = nn ∧ t.trace = s.trace) ∧
    (∀ nn, ∃ t, exec (.ldHlNnMem nn) s = .next t ∧ Loaded16 nn t.hl s t) ∧
    (∀ nn, s.params.undocOps = .silicon → ∃ t, exec (.ldHlNnMemEd nn) s = .next t ∧ Loaded16 nn t.hl s t) ∧
    (∀ p nn, ∃ t, exec (.ldRpNnMem p nn) s = .next t ∧ Loaded16 nn (t.pair p) s t) ∧
    (∀ i nn, ∃ t, exec (.ldIdxNnMem i nn) s = .next t ∧ Loaded16 nn (t.idx i) s t) ∧
    (∃ t, exec .ldSpHl s = .next t ∧ t.sp = s.hl ∧ t.trace = s.trace) ∧
    (∀ i, ∃ t, exec (.ldSpIdx i) s = .next t ∧ t.sp = s.idx i ∧ t.trace = s.trace)

/-- The 16-bit stores (R93 to R95): the low byte at `nn` first, then the high byte at `nn+1` modulo 2^16. -/
def Obligations.WordStoresFillTheWord : Prop :=
  ∀ (s : State) (nn : Word),
    (∃ t, exec (.ldNnMemHl nn) s = .next t ∧ Stored16 nn s.hl s t) ∧
    (s.params.undocOps = .silicon → ∃ t, exec (.ldNnMemHlEd nn) s = .next t ∧ Stored16 nn s.hl s t) ∧
    (∀ p, ∃ t, exec (.ldNnMemRp p nn) s = .next t ∧ Stored16 nn (s.pair p) s t) ∧
    (∀ i, ∃ t, exec (.ldNnMemIdx i nn) s = .next t ∧ Stored16 nn (s.idx i) s t)

/-- `PUSH` and `POP` (R98 to R101, R10): the high byte at SP-1 first, the low byte at SP-2; the low byte read at SP
first. `POP AF` writes every bit of F, and `PUSH AF` stores every bit. -/
def Obligations.PushAndPopMoveTheWord : Prop :=
  ∀ s : State,
    (∀ p, ∃ t, exec (.pushRp2 p) s = .next t ∧ Pushed (s.pair2 p) s t) ∧
    (∀ i, ∃ t, exec (.pushIdx i) s = .next t ∧ Pushed (s.idx i) s t) ∧
    (∀ p, ∃ t, exec (.popRp2 p) s = .next t ∧ Popped (t.pair2 p) s t) ∧
    (∀ i, ∃ t, exec (.popIdx i) s = .next t ∧ Popped (t.idx i) s t)

/-- A `POP` after a `PUSH` of another pair gives the word pushed and restores SP, where the stack is plain memory
(R98, R100, R19). -/
def Obligations.PopAfterPushGivesTheWord : Prop :=
  ∀ (s : State) (p q : Rp2), s.plainAt (s.sp - 1) → s.plainAt (s.sp - 2) →
    ∃ t u, exec (.pushRp2 p) s = .next t ∧ exec (.popRp2 q) t = .next u ∧ u.pair2 q = s.pair2 p ∧ u.sp = s.sp ∧
      (∀ a, a ≠ s.sp - 1 → a ≠ s.sp - 2 → u.byteAt a = s.byteAt a)

/-- R102, R103, R104: the exchanges, from their encodings, swap exactly the designated cells; each done twice restores
the state. A `DD` or `FD` byte before `EX DE,HL` is an ignored prefix. -/
def Obligations.ExchangesSwapTheDesignatedCells : Prop :=
  (∀ b1 b2 b3 : Byte, decodeBytes 0xEB b1 b2 b3 = .exDeHl ∧ decodeBytes 0x08 b1 b2 b3 = .exAfAf ∧
    decodeBytes 0xD9 b1 b2 b3 = .exx ∧ ∀ i : Idx, decodeBytes i.code 0xEB b2 b3 = .ignoredPrefix i) ∧
  ∀ s : State,
    (∃ t, exec .exDeHl s = .next t ∧ t.de = s.hl ∧ t.hl = s.de ∧ KeptOutside Instr.exDeHl.writes s t ∧
      exec .exDeHl t = .next s) ∧
    (∃ t, exec .exAfAf s = .next t ∧ t.regs.a = s.alt.a ∧ t.regs.f = s.alt.f ∧ t.alt.a = s.regs.a ∧
      t.alt.f = s.regs.f ∧ KeptOutside Instr.exAfAf.writes s t ∧ exec .exAfAf t = .next s) ∧
    (∃ t, exec .exx s = .next t ∧ t.bc = joinBytes s.alt.b s.alt.c ∧ t.de = joinBytes s.alt.d s.alt.e ∧
      t.hl = joinBytes s.alt.h s.alt.l ∧ joinBytes t.alt.b t.alt.c = s.bc ∧ joinBytes t.alt.d t.alt.e = s.de ∧
      joinBytes t.alt.h t.alt.l = s.hl ∧ KeptOutside Instr.exx.writes s t ∧ exec .exx t = .next s)

/-- `EX (SP),HL` and `EX (SP),idx` (R105, R106; the order of accesses, R38): SP read, SP+1 read, SP+1 written, SP
written; SP is unchanged. -/
def Obligations.StackExchangesSwapTheTopWord : Prop :=
  ∀ s : State,
    (∃ t lo hi, exec .exSpHl s = .next t ∧ t.hl = joinBytes hi lo ∧ t.sp = s.sp ∧
      t.trace = .memWrite s.sp s.regs.l :: .memWrite (s.sp + 1) s.regs.h :: .memRead (s.sp + 1) hi ::
        .memRead s.sp lo :: s.trace ∧
      (s.plainAt s.sp → lo = s.byteAt s.sp ∧ t.byteAt s.sp = s.regs.l) ∧
      (s.plainAt (s.sp + 1) → hi = s.byteAt (s.sp + 1) ∧ t.byteAt (s.sp + 1) = s.regs.h)) ∧
    (∀ i, ∃ t lo hi, exec (.exSpIdx i) s = .next t ∧ t.idx i = joinBytes hi lo ∧ t.sp = s.sp ∧
      t.trace = .memWrite s.sp (loByte (s.idx i)) :: .memWrite (s.sp + 1) (hiByte (s.idx i)) ::
        .memRead (s.sp + 1) hi :: .memRead s.sp lo :: s.trace ∧
      (s.plainAt s.sp → lo = s.byteAt s.sp ∧ t.byteAt s.sp = loByte (s.idx i)) ∧
      (s.plainAt (s.sp + 1) → hi = s.byteAt (s.sp + 1) ∧ t.byteAt (s.sp + 1) = hiByte (s.idx i)))

/-- `LDI`, `LDD`, `LDIR`, `LDDR` (R107 to R111): one execution moves one byte; a repeating form goes back to its own
address while BC is not 0 after the step. -/
def Obligations.BlockTransferMovesOneByte : Prop :=
  ∀ s : State,
    (∃ t, exec .ldi s = .next t ∧ BlockMoved 1 false s t) ∧
    (∃ t, exec .ldd s = .next t ∧ BlockMoved (-1) false s t) ∧
    (∃ t, exec .ldir s = .next t ∧ BlockMoved 1 true s t) ∧
    (∃ t, exec .lddr s = .next t ∧ BlockMoved (-1) true s t)

/-! ### Arithmetic and logic (41_arith_logic.md) -/

/-- `ADD` and `ADC` in every operand form (R124, R125; R114 for F): the sum modulo 256, and PV is set exactly when the
signed sum does not fit in eight bits (R21). -/
def Obligations.AddWritesTheSum : Prop :=
  ∀ (s : State) (form : AluForm),
    (Executes (form.instr .add) s →
      ∃ t v, exec (form.instr .add) s = .next t ∧ form.operandIs v s t ∧
        AddFlags s.regs.a v false t.regs.a s t ∧
        (t.regs.f.pv = true ↔ s.regs.a.toInt + v.toInt < -128 ∨ 127 < s.regs.a.toInt + v.toInt)) ∧
    (Executes (form.instr .adc) s →
      ∃ t v, exec (form.instr .adc) s = .next t ∧ form.operandIs v s t ∧
        AddFlags s.regs.a v s.regs.f.c t.regs.a s t ∧
        (t.regs.f.pv = true ↔ s.regs.a.toInt + v.toInt + s.regs.f.c.toNat < -128 ∨
          127 < s.regs.a.toInt + v.toInt + s.regs.f.c.toNat))

/-- `SUB`, `SBC` and `CP` in every operand form (R126, R127, R131; R115 for F): the difference modulo 256, and PV is set
exactly when the signed difference does not fit in eight bits; `CP` keeps A and takes Y and X from the operand. -/
def Obligations.SubtractWritesTheDifference : Prop :=
  ∀ (s : State) (form : AluForm),
    (Executes (form.instr .sub) s →
      ∃ t v, exec (form.instr .sub) s = .next t ∧ form.operandIs v s t ∧
        SubFlags s.regs.a v false t.regs.a t ∧ XyOf t.regs.a s t ∧
        (t.regs.f.pv = true ↔ s.regs.a.toInt - v.toInt < -128 ∨ 127 < s.regs.a.toInt - v.toInt)) ∧
    (Executes (form.instr .sbc) s →
      ∃ t v, exec (form.instr .sbc) s = .next t ∧ form.operandIs v s t ∧
        SubFlags s.regs.a v s.regs.f.c t.regs.a t ∧ XyOf t.regs.a s t ∧
        (t.regs.f.pv = true ↔ s.regs.a.toInt - v.toInt - s.regs.f.c.toNat < -128 ∨
          127 < s.regs.a.toInt - v.toInt - s.regs.f.c.toNat)) ∧
    (Executes (form.instr .cp) s →
      ∃ t v r, exec (form.instr .cp) s = .next t ∧ form.operandIs v s t ∧ t.regs.a = s.regs.a ∧
        SubFlags s.regs.a v false r t ∧ XyOf v s t)

/-- `AND`, `XOR` and `OR` in every operand form (R128 to R130; R118 for F), PV being 1 for an even number of 1 bits. -/
def Obligations.LogicWritesTheBitwiseResult : Prop :=
  ∀ (s : State) (form : AluForm),
    (Executes (form.instr .and) s →
      ∃ t v, exec (form.instr .and) s = .next t ∧ form.operandIs v s t ∧
        (∀ k, t.regs.a.getLsbD k = (s.regs.a.getLsbD k && v.getLsbD k)) ∧ LogicFlags t.regs.a true s t) ∧
    (Executes (form.instr .xor) s →
      ∃ t v, exec (form.instr .xor) s = .next t ∧ form.operandIs v s t ∧
        (∀ k, t.regs.a.getLsbD k = (s.regs.a.getLsbD k ^^ v.getLsbD k)) ∧ LogicFlags t.regs.a false s t) ∧
    (Executes (form.instr .or) s →
      ∃ t v, exec (form.instr .or) s = .next t ∧ form.operandIs v s t ∧
        (∀ k, t.regs.a.getLsbD k = (s.regs.a.getLsbD k || v.getLsbD k)) ∧ LogicFlags t.regs.a false s t)

/-- 8-bit `INC` and `DEC` in every form (R132, R133; R116, R117 for F): the operand replaced by one more or one less
modulo 256, C unchanged; a memory form reads once and then writes once, and a form on a half of an index register keeps
the other half (R18). -/
def Obligations.IncrementAndDecrementReplaceTheByte : Prop :=
  ∀ (s : State) (form : RmwForm) (i : Instr),
    (form.inc = some i → Executes i s →
      ∃ t v r, exec i s = .next t ∧ form.replaced v r s t ∧ IncFlags v r s t) ∧
    (form.dec = some i → Executes i s →
      ∃ t v r, exec i s = .next t ∧ form.replaced v r s t ∧ DecFlags v r s t)

/-- `DAA` (R134), for every A and F. -/
def Obligations.DecimalAdjustFollowsItsTable : Prop :=
  ∀ s : State, ∃ t, exec .daa s = .next t ∧
    let a := s.regs.a.toNat
    let low := if s.regs.f.h = true ∨ a % 16 > 9 then 0x06 else 0x00
    let high := if s.regs.f.c = true ∨ a > 0x99 then 0x60 else 0x00
    (s.regs.f.n = false → t.regs.a.toNat = (a + low + high) % 256 ∧ t.regs.f.h = decide (a % 16 > 9)) ∧
    (s.regs.f.n = true → t.regs.a.toNat = (a + 256 - low - high) % 256 ∧
      t.regs.f.h = (s.regs.f.h && decide (a % 16 < 6))) ∧
    SzpOf t.regs.a t.regs.f ∧ t.regs.f.c = (s.regs.f.c || decide (a > 0x99)) ∧ t.regs.f.n = s.regs.f.n ∧
    XyOf t.regs.a s t

/-- R134: `DAA` after an `ADD`, `ADC`, `SUB` or `SBC` of two packed decimal numbers gives the packed decimal sum or
difference modulo 100, with C the decimal carry or borrow. -/
def Obligations.DecimalAdjustCorrectsDecimalSums : Prop :=
  ∀ (s t u : State) (x y : Nat) (c : Bool), x < 100 → y < 100 → s.regs.a = packedBcd x →
    exec .daa t = .next u →
    (c = s.regs.f.c → exec (.adcAN (packedBcd y)) s = .next t →
      u.regs.a = packedBcd ((x + y + c.toNat) % 100) ∧ u.regs.f.c = decide (x + y + c.toNat ≥ 100)) ∧
    (c = s.regs.f.c → exec (.sbcAN (packedBcd y)) s = .next t →
      u.regs.a = packedBcd ((x + 100 - y - c.toNat) % 100) ∧ u.regs.f.c = decide (x < y + c.toNat)) ∧
    (exec (.addAN (packedBcd y)) s = .next t →
      u.regs.a = packedBcd ((x + y) % 100) ∧ u.regs.f.c = decide (x + y ≥ 100)) ∧
    (exec (.subN (packedBcd y)) s = .next t →
      u.regs.a = packedBcd ((x + 100 - y) % 100) ∧ u.regs.f.c = decide (x < y))

/-- `CPL`, `NEG` and its duplicates, `SCF`, `CCF` (R135 to R138). Y and X of `SCF` and `CCF` are free. -/
def Obligations.AccumulatorAndFlagOperations : Prop :=
  ∀ s : State,
    (∃ t, exec .cpl s = .next t ∧ (∀ k, k < 8 → t.regs.a.getLsbD k = !s.regs.a.getLsbD k) ∧ t.regs.f.h = true ∧
      t.regs.f.n = true ∧ XyOf t.regs.a s t) ∧
    (∃ t, exec .neg s = .next t ∧ SubFlags 0 s.regs.a false t.regs.a t ∧ XyOf t.regs.a s t) ∧
    (∀ y, s.params.undocOps = .silicon →
      ∃ t, exec (.negDup y) s = .next t ∧ SubFlags 0 s.regs.a false t.regs.a t ∧ XyOf t.regs.a s t) ∧
    (∃ t, exec .scf s = .next t ∧ t.regs.f.c = true ∧ t.regs.f.h = false ∧ t.regs.f.n = false ∧
      t.regs.f.s = s.regs.f.s ∧ t.regs.f.z = s.regs.f.z ∧ t.regs.f.pv = s.regs.f.pv) ∧
    (∃ t, exec .ccf s = .next t ∧ t.regs.f.h = s.regs.f.c ∧ t.regs.f.c = (!s.regs.f.c) ∧ t.regs.f.n = false ∧
      t.regs.f.s = s.regs.f.s ∧ t.regs.f.z = s.regs.f.z ∧ t.regs.f.pv = s.regs.f.pv)

/-- 16-bit arithmetic (R139 to R144; R119 to R121 for F): the sums and differences modulo 2^16; `INC` and `DEC` of a
pair write no flag. -/
def Obligations.WordArithmeticWritesThePair : Prop :=
  ∀ s : State,
    (∀ p, ∃ t, exec (.addHlRp p) s = .next t ∧ Add16Flags s.hl (s.pair p) t.hl s t) ∧
    (∀ i p, ∃ t, exec (.addIdxRp i p) s = .next t ∧ Add16Flags (s.idx i) (s.pairIdx i p) (t.idx i) s t) ∧
    (∀ p, ∃ t, exec (.adcHlRp p) s = .next t ∧ Adc16Flags s.hl (s.pair p) s.regs.f.c t.hl s t) ∧
    (∀ p, ∃ t, exec (.sbcHlRp p) s = .next t ∧ Sbc16Flags s.hl (s.pair p) s.regs.f.c t.hl s t) ∧
    (∀ p, ∃ t, exec (.incRp p) s = .next t ∧ t.pair p = s.pair p + 1 ∧ t.regs.f = s.regs.f) ∧
    (∀ i, ∃ t, exec (.incIdx i) s = .next t ∧ t.idx i = s.idx i + 1 ∧ t.regs.f = s.regs.f) ∧
    (∀ p, ∃ t, exec (.decRp p) s = .next t ∧ t.pair p = s.pair p - 1 ∧ t.regs.f = s.regs.f) ∧
    (∀ i, ∃ t, exec (.decIdx i) s = .next t ∧ t.idx i = s.idx i - 1 ∧ t.regs.f = s.regs.f)

/-- `CPI`, `CPD`, `CPIR`, `CPDR` (R145 to R149): one execution compares one byte; a repeating form goes back to its own
address while BC is not 0 and no match is found. -/
def Obligations.BlockCompareComparesOneByte : Prop :=
  ∀ s : State,
    (∃ t, exec .cpi s = .next t ∧ BlockCompared 1 false s t) ∧
    (∃ t, exec .cpd s = .next t ∧ BlockCompared (-1) false s t) ∧
    (∃ t, exec .cpir s = .next t ∧ BlockCompared 1 true s t) ∧
    (∃ t, exec .cpdr s = .next t ∧ BlockCompared (-1) true s t)

/-- R122: what a model can check over every pair of bytes of the flag functions, and `INC` of 0x7F. -/
def Obligations.FlagFunctionsOverEveryPair : Prop :=
  (∀ a b : Byte,
    (add8 a b false).2.z = decide ((a.toNat + b.toNat) % 256 = 0) ∧
    (add8 a b false).2.s = decide (128 ≤ (a.toNat + b.toNat) % 256) ∧
    (add8 a b false).2.c = decide (a.toNat + b.toNat > 255) ∧
    (add8 a b false).2.h = decide (a.toNat % 16 + b.toNat % 16 > 15) ∧
    (sub8 a b false).2.c = decide (a.toNat < b.toNat) ∧
    (sub8 a b false).2.h = decide (a.toNat % 16 < b.toNat % 16)) ∧
  (∀ f : Flags, (inc8 f 0x7F).1 = 0x80 ∧ (inc8 f 0x7F).2.z = false ∧ (inc8 f 0x7F).2.s = true ∧
    (inc8 f 0x7F).2.h = true ∧ (inc8 f 0x7F).2.pv = true)

/-! ### Rotates, shifts, bits (42_rotate_bit.md) -/

/-- The rotates and shifts (R150 to R162) in every form: the operand replaced, C the bit shifted out, H and N clear;
`SZP` of the result in the CB map, and S, Z and PV kept by the accumulator forms; the register copy is made after the
write. -/
def Obligations.RotatesAndShiftsReplaceTheByte : Prop :=
  ∀ (s : State) (kind : Rotation) (i : Instr),
    ((i, kind) ∈ [(.rlca, .rlc), (.rrca, .rrc), (.rla, .rl), (.rra, .rr)] →
      ∃ t, exec i s = .next t ∧
        (t.regs.a.toNat, t.regs.f.c.toNat) = rotated kind s.regs.a.toNat s.regs.f.c.toNat ∧
        t.regs.f.h = false ∧ t.regs.f.n = false ∧ XyOf t.regs.a s t ∧
        t.regs.f.s = s.regs.f.s ∧ t.regs.f.z = s.regs.f.z ∧ t.regs.f.pv = s.regs.f.pv) ∧
    (∀ form : RmwForm, form.rot kind = some i → Executes i s →
      ∃ t v r, exec i s = .next t ∧ form.replaced v r s t ∧
        (r.toNat, t.regs.f.c.toNat) = rotated kind v.toNat s.regs.f.c.toNat ∧
        SzpOf r t.regs.f ∧ t.regs.f.h = false ∧ t.regs.f.n = false ∧ XyOf r s t)

/-- `BIT` in every form (R163): no cell written but flags other than C, and no byte; Y and X from the register, from the high byte of the address
of `(idx+d)`, and free for `(HL)`. -/
def Obligations.BitTestsTheBit : Prop :=
  ∀ (s : State) (form : RmwForm) (b : Fin 8) (i : Instr), form.bit b = some i → Executes i s →
    ∃ t v, exec i s = .next t ∧ form.tested v s t ∧ KeptOutside flagsButC s t ∧ t.mem = s.mem ∧
      t.regs.f.z = !v.getLsbD b ∧ t.regs.f.h = true ∧ t.regs.f.n = false ∧ t.regs.f.c = s.regs.f.c ∧
      (s.params.undocFlags = .silicon →
        t.regs.f.pv = !v.getLsbD b ∧ t.regs.f.s = (decide (b = 7) && v.getLsbD b) ∧
        (∀ q, form = .reg q → t.regs.f.y = v.getLsbD 5 ∧ t.regs.f.x = v.getLsbD 3) ∧
        (∀ j d, form = .idxMem j d ∨ (∃ z, form = .idxCopy j d z) →
          t.regs.f.y = (s.idx j + signExtend16 d).getLsbD 13 ∧ t.regs.f.x = (s.idx j + signExtend16 d).getLsbD 11))

/-- `RES` and `SET` in every form (R164, R165): exactly the named bit changed, F unchanged. -/
def Obligations.ResetAndSetChangeOneBit : Prop :=
  ∀ (s : State) (form : RmwForm) (b : Fin 8) (i : Instr),
    (form.res b = some i → Executes i s →
      ∃ t v r, exec i s = .next t ∧ form.replaced v r s t ∧ t.regs.f = s.regs.f ∧
        ∀ k, k < 8 → r.getLsbD k = if k = b.val then false else v.getLsbD k) ∧
    (form.set b = some i → Executes i s →
      ∃ t v r, exec i s = .next t ∧ form.replaced v r s t ∧ t.regs.f = s.regs.f ∧
        ∀ k, k < 8 → r.getLsbD k = if k = b.val then true else v.getLsbD k)

/-- `RLD` and `RRD` (R166, R167): the three digits of A and the byte at HL turned, A's high digit kept. -/
def Obligations.DigitRotatesTurnThreeDigits : Prop :=
  ∀ s : State,
    (∃ t v r, exec .rld s = .next t ∧ Modified s.hl v r s t ∧
      r.toNat = v.toNat % 16 * 16 + s.regs.a.toNat % 16 ∧
      t.regs.a.toNat = s.regs.a.toNat / 16 * 16 + v.toNat / 16 ∧
      SzpOf t.regs.a t.regs.f ∧ t.regs.f.h = false ∧ t.regs.f.n = false ∧ t.regs.f.c = s.regs.f.c ∧
      XyOf t.regs.a s t) ∧
    (∃ t v r, exec .rrd s = .next t ∧ Modified s.hl v r s t ∧
      r.toNat = s.regs.a.toNat % 16 * 16 + v.toNat / 16 ∧
      t.regs.a.toNat = s.regs.a.toNat / 16 * 16 + v.toNat % 16 ∧
      SzpOf t.regs.a t.regs.f ∧ t.regs.f.h = false ∧ t.regs.f.n = false ∧ t.regs.f.c = s.regs.f.c ∧
      XyOf t.regs.a s t)

/-! ### Control transfer (43_control.md) -/

/-- The jumps (R168 to R174) and the conditions they and the calls and returns test (R24): the target, a relative one
counted from PC past the instruction, modulo 2^16; a jump not taken leaves PC past the instruction; `DJNZ` decrements B
with no flag. -/
def Obligations.JumpsGoToTheirTarget : Prop :=
  ∀ s : State,
    (s.cond .nz = !s.regs.f.z) ∧ (s.cond .z = s.regs.f.z) ∧ (s.cond .nc = !s.regs.f.c) ∧ (s.cond .c = s.regs.f.c) ∧
    (s.cond .po = !s.regs.f.pv) ∧ (s.cond .pe = s.regs.f.pv) ∧ (s.cond .p = !s.regs.f.s) ∧ (s.cond .m = s.regs.f.s) ∧
    (∀ nn, ∃ t, exec (.jpNn nn) s = .next t ∧ t.pc = nn) ∧
    (∀ cc nn, ∃ t, exec (.jpCcNn cc nn) s = .next t ∧ t.pc = if s.cond cc then nn else s.pc) ∧
    (∀ e, ∃ t, exec (.jr e) s = .next t ∧ (t.pc.toNat : Int) = (s.pc.toNat + e.toInt) % 65536) ∧
    (∀ cc e, ∃ t, exec (.jrCc cc e) s = .next t ∧
      (t.pc.toNat : Int) = if s.cond (jrCondition cc) then (s.pc.toNat + e.toInt) % 65536 else s.pc.toNat) ∧
    (∀ e, ∃ t, exec (.djnz e) s = .next t ∧ t.regs.b.toNat = (s.regs.b.toNat + 255) % 256 ∧ t.regs.f = s.regs.f ∧
      (t.pc.toNat : Int) = if s.regs.b = 1 then (s.pc.toNat : Int) else (s.pc.toNat + e.toInt) % 65536) ∧
    (∃ t, exec .jpHl s = .next t ∧ t.pc = s.hl ∧ t.trace = s.trace) ∧
    (∀ i, ∃ t, exec (.jpIdx i) s = .next t ∧ t.pc = s.idx i ∧ t.trace = s.trace)

/-- `CALL`, `RST`, `RET`, `RETN` and `RETI` (R175 to R181, R226): the address past the instruction pushed, the target
taken; a conditional form not taken makes no stack access and leaves PC past the instruction; `RETN`, its duplicates and
`RETI` also copy IFF2 into IFF1 and keep IFF2. -/
def Obligations.CallsAndReturnsUseTheStack : Prop :=
  ∀ s : State,
    (∀ nn, ∃ t, exec (.callNn nn) s = .next t ∧ t.pc = nn ∧ Pushed s.pc s t) ∧
    (∀ cc nn, s.cond cc = true → ∃ t, exec (.callCcNn cc nn) s = .next t ∧ t.pc = nn ∧ Pushed s.pc s t) ∧
    (∀ cc nn, s.cond cc = false → exec (.callCcNn cc nn) s = .next s) ∧
    (∀ y, ∃ t, exec (.rst y) s = .next t ∧ t.pc.toNat = y.val * 8 ∧ Pushed s.pc s t) ∧
    (∃ t, exec .ret s = .next t ∧ Popped t.pc s t) ∧
    (∀ cc, s.cond cc = true → ∃ t, exec (.retCc cc) s = .next t ∧ Popped t.pc s t) ∧
    (∀ cc, s.cond cc = false → exec (.retCc cc) s = .next s) ∧
    (∃ t, exec .retn s = .next t ∧ Popped t.pc s t ∧ t.iff1 = s.iff2 ∧ t.iff2 = s.iff2) ∧
    (∃ t, exec .reti s = .next t ∧ Popped t.pc s t ∧ t.iff1 = s.iff2 ∧ t.iff2 = s.iff2) ∧
    (∀ y, s.params.undocOps = .silicon →
      ∃ t, exec (.retnDup y) s = .next t ∧ Popped t.pc s t ∧ t.iff1 = s.iff2 ∧ t.iff2 = s.iff2)

/-! ### Ports (44_io.md) -/

/-- The single transfers (R183, R185 to R190): the port is A and n, or BC; one access; `IN r,(C)` and `IN F,(C)` set F
from the byte read, `IN A,(n)` does not. -/
def Obligations.SinglePortTransfers : Prop :=
  ∀ s : State,
    (∀ n, ∃ t, exec (.inAN n) s = .next t ∧ t.trace = .ioRead (joinBytes s.regs.a n) t.regs.a :: s.trace ∧
      t.regs.f = s.regs.f) ∧
    (∀ y, ∃ t v, exec (.inRC y) s = .next t ∧ t.trace = .ioRead s.bc v :: s.trace ∧ t.reg y = v ∧
      SzpOf v t.regs.f ∧ t.regs.f.h = false ∧ t.regs.f.n = false ∧ t.regs.f.c = s.regs.f.c ∧ XyOf v s t) ∧
    (s.params.undocOps = .silicon →
      ∃ t v, exec .inFC s = .next t ∧ t.trace = .ioRead s.bc v :: s.trace ∧
        SzpOf v t.regs.f ∧ t.regs.f.h = false ∧ t.regs.f.n = false ∧ t.regs.f.c = s.regs.f.c ∧ XyOf v s t) ∧
    (∀ n, ∃ t, exec (.outNA n) s = .next t ∧ t.trace = .ioWrite (joinBytes s.regs.a n) s.regs.a :: s.trace) ∧
    (∀ y, ∃ t, exec (.outCR y) s = .next t ∧ t.trace = .ioWrite s.bc (s.reg y) :: s.trace) ∧
    (s.params.undocOps = .silicon → ∃ t, exec .outC0 s = .next t ∧ t.trace = .ioWrite s.bc 0x00 :: s.trace)

/-- The block transfers (R191 to R198, R184): the port has B before the decrement for input and after it for output. -/
def Obligations.BlockPortTransfers : Prop :=
  ∀ s : State,
    (∃ t, exec .ini s = .next t ∧ BlockRead 1 1 false s t) ∧
    (∃ t, exec .ind s = .next t ∧ BlockRead (-1) (-1) false s t) ∧
    (∃ t, exec .inir s = .next t ∧ BlockRead 1 1 true s t) ∧
    (∃ t, exec .indr s = .next t ∧ BlockRead (-1) (-1) true s t) ∧
    (∃ t, exec .outi s = .next t ∧ BlockWritten 1 false s t) ∧
    (∃ t, exec .outd s = .next t ∧ BlockWritten (-1) false s t) ∧
    (∃ t, exec .otir s = .next t ∧ BlockWritten 1 true s t) ∧
    (∃ t, exec .otdr s = .next t ∧ BlockWritten (-1) true s t)

/-! ### System instructions (45_system.md) -/

/-- `NOP` and the two fallbacks (R199, R65, R66), `HALT`, `DI`, `EI`, the mode selects (R200 to R203), the mode after
`ED 4E` and `ED 6E` being 0 or 1 and otherwise free, and the special registers (R204 to R207): `LD A,I` and `LD A,R` set
PV to IFF2, and R reads as it counts, or as a free byte under `R_MODEL = Draw`. -/
def Obligations.SystemInstructions : Prop :=
  ∀ s : State,
    exec .nop s = .next s ∧ (∀ op, exec (.edUndefined op) s = .next s) ∧ (∀ i, exec (.ignoredPrefix i) s = .next s) ∧
    (∃ t, exec .halt s = .next t ∧ t.pc = s.pc - 1 ∧ t.halted = true) ∧
    (∃ t, exec .di s = .next t ∧ t.iff1 = false ∧ t.iff2 = false) ∧
    (∃ t, exec .ei s = .next t ∧ t.iff1 = true ∧ t.iff2 = true) ∧
    (∃ t, exec .im0 s = .next t ∧ t.im = .im0) ∧
    (∃ t, exec .im1 s = .next t ∧ t.im = .im1) ∧
    (∃ t, exec .im2 s = .next t ∧ t.im = .im2) ∧
    (s.params.undocOps = .silicon →
      (∃ t, exec .im0Dup s = .next t ∧ t.im = .im0) ∧ (∃ t, exec .im1Dup s = .next t ∧ t.im = .im1) ∧
      (∃ t, exec .im2Dup s = .next t ∧ t.im = .im2) ∧
      (∀ q, ∃ t, exec (.im01 q) s = .next t ∧ (t.im = .im0 ∨ t.im = .im1))) ∧
    (∃ t, exec .ldIA s = .next t ∧ t.i = s.regs.a) ∧
    (∃ t, exec .ldRA s = .next t ∧ t.r = s.regs.a) ∧
    (∃ t, exec .ldAI s = .next t ∧ t.regs.a = s.i ∧ t.regs.f.s = s.i.getLsbD 7 ∧ t.regs.f.z = decide (s.i = 0) ∧
      t.regs.f.h = false ∧ t.regs.f.n = false ∧ t.regs.f.pv = s.iff2 ∧ t.regs.f.c = s.regs.f.c ∧ XyOf s.i s t) ∧
    (∃ t, exec .ldAR s = .next t ∧ (s.params.rModel = .count → t.regs.a = s.r) ∧
      t.regs.f.s = t.regs.a.getLsbD 7 ∧ t.regs.f.z = decide (t.regs.a = 0) ∧
      t.regs.f.h = false ∧ t.regs.f.n = false ∧ t.regs.f.pv = s.iff2 ∧ t.regs.f.c = s.regs.f.c ∧ XyOf t.regs.a s t)

/-! ### Interrupts, the run loop and the host (60_exceptions.md) -/

/-- R215, R216, R223, R225: a step with the NMI latched accepts it, whatever the enables and the maskable line: PC (past
the `HALT` of a halted core) pushed, PC at 0x0066, IFF2 the old IFF1, IFF1 clear; no other cell or byte changes. Where the
stack is plain memory the step completes and intLine is unchanged; a device there may change the line, or make the
forbidden call the step ends in, at its access (R51, R235; log 5). That the latch ends clear even if such a device has
triggered it anew during the push is log 20's, the model's reading of the order in R216. -/
def Obligations.NmiIsAlwaysAccepted : Prop :=
  ∀ s : State, s.live → s.nmiLatch = true →
    ∃ t, step s = endOfStep (.next t) ∧ Accepted 0x0066 s.iff1 s t ∧ t.nmiLatch = false ∧
      t.trace = s.pushWrites ++ s.trace ∧
      (s.plainAt (s.sp - 1) → s.plainAt (s.sp - 2) → t.intLine = s.intLine ∧ t.violation = none)

/-- R217, R218, R219, R225: a step with the maskable line active and enabled, and no NMI, accepts it: in mode 0 at the
restart address of the `RST` byte the provider selects, in mode 1 at 0x0038, in mode 2 at the word at `I:b`, read before
the push; IFF1 and IFF2 clear. Acceptance clears neither line (R211, R223, R249): where the stack, and in mode 2 the
vector, is plain memory, the lines are as the provider's answer leaves them, and unchanged without a provider. The step
ends in the fault of a forbidden host call if a callback made one (R235; log 13). -/
def Obligations.MaskableInterruptIsAcceptedByMode : Prop :=
  ∀ s : State, s.live → s.nmiLatch = false → s.intLine = true → s.iff1 = true →
    let answer := s.answerTo .provider
    let selected := answer.data
    let pointer := joinBytes s.i selected
    let plainStack := s.plainAt (s.sp - 1) ∧ s.plainAt (s.sp - 2)
    (s.im = .im0 → s.provider = true → answer.declined = false → selected &&& 0xC7 = 0xC7 →
      ∃ t, step s = endOfStep (.next t) ∧ Accepted (joinBytes 0x00 (selected &&& 0x38)) false s t ∧
        t.trace = s.pushWrites ++ .provider (some selected) :: s.trace ∧ (plainStack → LinesAfter answer s t)) ∧
    (s.im = .im1 →
      ∃ t, step s = endOfStep (.next t) ∧ Accepted 0x0038 false s t ∧
        (s.provider = false → t.trace = s.pushWrites ++ s.trace ∧ (plainStack → LinesKept s t)) ∧
        (s.provider = true → (∃ b, t.trace = .provider b :: (s.pushWrites ++ s.trace)) ∧
          (plainStack → LinesAfter (State.answerTo { s with trace := s.pushWrites ++ s.trace } .provider) s t))) ∧
    (s.im = .im2 → s.provider = true → answer.declined = false →
      ∃ t vector, step s = endOfStep (.next t) ∧ Accepted vector false s t ∧
        t.trace = s.pushWrites ++ .memRead (pointer + 1) (hiByte vector) :: .memRead pointer (loByte vector) ::
          .provider (some selected) :: s.trace ∧
        (s.plainAt pointer → loByte vector = s.byteAt pointer) ∧
        (s.plainAt (pointer + 1) → hiByte vector = s.byteAt (pointer + 1)) ∧
        (plainStack → s.plainAt pointer → s.plainAt (pointer + 1) → LinesAfter answer s t))

/-- R214, R217, R220, R222, R223: the poll accepts nothing, and changes no cell and no byte, when the line is not active
or not enabled, or in modes 0 and 2 when there is no provider or its selector is invalid; a request so turned away stays
pending where the provider does not change the line. A step then goes on from what the poll left: a halted core stays
halted, and `Run` returns 0; a core that runs executes its next instruction. A forbidden host call of the provider is
the fault the step ends in instead (R235). The index of free values is the model's own (log 8), and the halted turn is a
step by log 11. -/
def Obligations.InvalidSelectorAcceptsNothing : Prop :=
  ∀ s : State, s.nmiLatch = false → s.turnsAway →
    let answer := s.answerTo .provider
    ∃ u, s.nextDraw.poll = (u, false) ∧ KeptOutside [] s u ∧ u.mem = s.mem ∧ u.bus = s.bus ∧
      (s.provider = false ∨ answer.line = none → u.intLine = s.intLine) ∧
      (s.provider = false ∨ answer.call = none → u.violation = s.violation) ∧
      (s.live → u.violation = none →
        (s.halted = true → step s = .next u ∧ ∀ n : BitVec 32, n ≠ 0 → run n s = .next (u, 0)) ∧
        (s.halted = false → ∀ (i : Instr) (rest : List Byte),
          s.plainFetch → decode (s.bytesAt s.pc 4) = .ok (i, rest) → step s = endOfStep (exec i (u.afterFetch i))))

/-- R29, R222, R229: a halted core at whose poll nothing is pending executes nothing, and `Run` returns 0; every cell
survives (R243). That this idle turn, which ends a `Run` in R229, is a step that answers a next state is the model's
choice (log 11), and so is the index of free values it moves on (log 8). A halted core whose enabled request is declined
(R220) is in `InvalidSelectorAcceptsNothing`. -/
def Obligations.HaltedCoreWaits : Prop :=
  ∀ (s : State) (n : BitVec 32), s.live → s.halted = true → s.nmiLatch = false →
    (s.intLine && s.iff1) = false →
    step s = .next s.nextDraw ∧ ∃ t, run n s = .next (t, 0) ∧ KeptOutside [] s t ∧ t.mem = s.mem ∧ t.trace = s.trace

/-- R202, R249: `EI` has no shadow: with the line active in mode 1 the step after it accepts, pushing the address after
the `EI`. A provider called in that step may make the forbidden call it ends in (R235); without one it completes. -/
def Obligations.EnableTakesEffectAtTheNextPoll : Prop :=
  ∀ s : State, s.live → s.nmiLatch = false → s.intLine = true → s.im = .im1 → s.halted = false →
    s.plainAt (s.sp - 1) → s.plainAt (s.sp - 2) →
    ∃ t u, exec .ei s = .next t ∧ step t = endOfStep (.next u) ∧ u.pc = 0x0038 ∧
      u.byteAt (s.sp - 1) = hiByte s.pc ∧ u.byteAt (s.sp - 2) = loByte s.pc ∧
      (s.provider = false → u.violation = none)

/-- R216, R226, R227: `RETN` after an accepted NMI restores PC, SP and the enable flag the NMI found, where the stack
is plain memory. -/
def Obligations.ReturnUndoesAnNmi : Prop :=
  ∀ s : State, s.live → s.nmiLatch = true → s.plainAt (s.sp - 1) → s.plainAt (s.sp - 2) →
    ∃ t u, step s = .next t ∧ exec .retn t = .next u ∧ u.pc = s.returnAddress ∧ u.sp = s.sp ∧ u.iff1 = s.iff1 ∧
      u.regs = s.regs ∧ u.halted = false

/-- R229: `Run(n)` faults before `Init`; `Run(0)` does nothing; a `Run` that returns executed at most n, and fewer only
with the core halted. An executed `HALT` ends the `Run` at once, with the step counted and without another poll, even if
the read of its opcode has latched an NMI (R200, R213). A `Run` of m + n steps is a `Run` of m followed by a `Run` of n,
if the first is not cut short and does not leave the core halted. -/
def Obligations.RunCountsItsSteps : Prop :=
  ∀ (n : BitVec 32) (s : State),
    (s.initialised = false → run n s = .fault (.preconditionViolation .run)) ∧
    (s.initialised = true → run 0 s = .next (s, 0)) ∧
    (∀ t count, run n s = .next (t, count) → count ≤ n.toNat ∧ (count < n.toNat → t.halted = true)) ∧
    (n ≠ 0 → s.runsNext → s.opcodeAtPc 0x76 →
      ∃ t, step s = .next t ∧ t.halted = true ∧ t.pc = s.pc ∧ run n s = .next (t, 1) ∧
        (s.isDevice s.pc = true → t.nmiLatch = (s.answerTo (.memRead s.pc)).nmi)) ∧
    (∀ (m : BitVec 32) (t : State), m.toNat + n.toNat < 2 ^ 32 → run m s = .next (t, m.toNat) → t.halted = false →
      run (m + n) s = countedFrom m.toNat (run n t))

/-- R229, R230: every `Run` of a live core under Silicon returns, whatever memory holds, or ends in the fault of a
forbidden host call that a callback made (R235; log 13), and it returns if the environment makes no such call in the at
most seven accesses of each step; when it returns, the invariant holds, whose canonical form is the model's own (log 2),
and the open parameters are unchanged (log 7). That no `Run` of a live core ends in `UnwrittenRead` is the model's choice,
not the spec's (R209, R230; log 1). -/
def Obligations.EveryRunReturns : Prop :=
  ∀ (n : BitVec 32) (s : State), s.live → s.params.undocOps = .silicon → s.Inv →
    (∀ t count, run n s = .next (t, count) → t.Inv ∧ t.live ∧ t.params = s.params) ∧
    ((∃ t count, run n s = .next (t, count)) ∨ ∃ call, run n s = .fault (.preconditionViolation call)) ∧
    (s.quiet (7 * n.toNat) → ∃ t count, run n s = .next (t, count))

/-- R233, R234: a context saved and loaded into any core gives it the saved register context, `halted`, the two lines
and the mark of the control cells (log 1), and leaves the rest of that core; so with the same environment its next step
is the same. A blob `SaveContext` did not make faults (log 12). -/
def Obligations.LoadedContextIsTheSavedOne : Prop :=
  ∀ s u : State,
    (∃ t, hostCall false .saveContext s = .next (s, .blob s.saveContext) ∧
      hostCall false (.loadContext s.saveContext) u = .next (t, .nothing) ∧
      (∀ cell, t.cell cell = s.cell cell) ∧ t.nmiLatch = s.nmiLatch ∧ t.intLine = s.intLine ∧
      t.controlWritten = s.controlWritten ∧
      t.initialised = u.initialised ∧ t.bus = u.bus ∧ t.provider = u.provider ∧ t.mem = u.mem ∧
      (u.initialised = s.initialised → u.bus = s.bus → u.provider = s.provider → u.violation = s.violation →
        u.mem = s.mem → u.params = s.params → u.answers = s.answers → u.trace = s.trace → u.draws = s.draws →
        step t = step s)) ∧
    hostCall false (.loadContext .foreign) u = .fault .invalidContextBlob

/-- R231, R235, R236, R246: `Init` once only, and it writes no cell; inside a `Run` only `TriggerNMI` and
`SetLevelInterrupt` are allowed, and they write their line and nothing else, before `Init` too (R212); any other call is
`PreconditionViolation` of that call, and so it is when the device that answers the first fetch of a step, or the
provider it asks first, makes it: the step and the `Run` in progress end in it. After `Init` but before `Reset` or
`LoadContext` every step and every `Run` of at least one faults at its poll, which reads an unwritten cell; `Reset()`
ends that. -/
def Obligations.HostCallsKeepTheirPreconditions : Prop :=
  ∀ (s : State) (bus : Bus) (provider inRun active : Bool) (n : BitVec 32) (blob : Blob),
    (s.initialised = true → hostCall false (.init bus provider) s = .fault (.preconditionViolation .init)) ∧
    (s.initialised = false → ∃ t, hostCall false (.init bus provider) s = .next (t, .nothing) ∧
      t.initialised = true ∧ t.bus = some bus ∧ t.provider = provider ∧ KeptOutside [] s t ∧
      t.nmiLatch = s.nmiLatch ∧ t.intLine = s.intLine ∧ t.mem = s.mem ∧ t.controlWritten = s.controlWritten) ∧
    (∀ p ∈ [(HostCall.init bus provider, Config.HostCallName.init), (.reset, .reset), (.run n, .run),
        (.saveContext, .saveContext), (.loadContext blob, .loadContext)],
      hostCall true p.1 s = .fault (.preconditionViolation p.2)) ∧
    hostCall inRun .triggerNmi s = .next ({ s with nmiLatch := true }, .nothing) ∧
    hostCall inRun (.setLevelInterrupt active) s = .next ({ s with intLine := active }, .nothing) ∧
    (∀ call, s.runsNext → s.isDevice s.pc = true → (s.answerTo (.memRead s.pc)).call = some call →
      step s = .fault (.preconditionViolation call) ∧ (n ≠ 0 → run n s = .fault (.preconditionViolation call))) ∧
    (∀ call, s.live → s.nmiLatch = false → s.intLine = true → s.iff1 = true → s.im ≠ .im1 → s.provider = true →
      (s.answerTo .provider).call = some call →
      step s = .fault (.preconditionViolation call) ∧ (n ≠ 0 → run n s = .fault (.preconditionViolation call))) ∧
    (s.initialised = true → s.controlWritten = false →
      let cell := if s.nmiLatch then ControlCell.halted else ControlCell.nmiLatch
      step s = .fault (.unwrittenRead cell) ∧ (n ≠ 0 → run n s = .fault (.unwrittenRead cell)) ∧
      ∃ t, hostCall false .reset s = .next (t, .nothing) ∧ t.controlWritten = true)

end Slice0
end

