-- ==== Sys2Proof/Laws/Memory.lean ====
section
/-!
SUPPORT. Plain memory: a read after a write, and that every operation keeps the canonical form.
-/

namespace Sys2Proof.Machine

theorem Memory.read_erase_same (m : List Host.Cell) (a : Nat) : Memory.read (Memory.erase m a) a = Config.unlistedByte := by
  induction m with
  | nil => rfl
  | cons c rest ih =>
    obtain ⟨b, w⟩ := c
    by_cases h : b = a <;> simp [Memory.erase, Memory.read, h, ih]

theorem Memory.read_erase_other (m : List Host.Cell) {a a' : Nat} (h : a' ≠ a) :
    Memory.read (Memory.erase m a) a' = Memory.read m a' := by
  induction m with
  | nil => rfl
  | cons c rest ih =>
    obtain ⟨b, w⟩ := c
    by_cases hb : b = a
    · subst hb
      simp [Memory.erase, Memory.read, ih, Ne.symm h]
    · simp [Memory.erase, Memory.read, hb, ih]

theorem Memory.read_insert_same (m : List Host.Cell) (a : Nat) (v : Byte) :
    Memory.read (Memory.insert (Memory.erase m a) a v) a = v := by
  induction m with
  | nil => simp [Memory.erase, Memory.insert, Memory.read]
  | cons c rest ih =>
    obtain ⟨b, w⟩ := c
    by_cases hb : b = a
    · simpa [Memory.erase, hb] using ih
    · by_cases hlt : a < b <;> simp [Memory.erase, Memory.insert, Memory.read, hb, hlt, ih]

theorem Memory.read_insert_other (m : List Host.Cell) {a a' : Nat} (v : Byte) (h : a' ≠ a) :
    Memory.read (Memory.insert m a v) a' = Memory.read m a' := by
  induction m with
  | nil => simp [Memory.insert, Memory.read, Ne.symm h]
  | cons c rest ih =>
    obtain ⟨b, w⟩ := c
    by_cases hlt : a < b <;> simp [Memory.insert, Memory.read, hlt, ih, Ne.symm h]

/-- A read after a write at the same address gives the byte written. -/
@[simp] theorem Memory.read_write_same (m : List Host.Cell) (a : Nat) (v : Byte) :
    Memory.read (Memory.write m a v) a = v := by
  unfold Memory.write
  split
  · next h => rw [Memory.read_erase_same, h]
  · exact Memory.read_insert_same m a v

/-- A write leaves every other address alone. -/
theorem Memory.read_write_other (m : List Host.Cell) {a a' : Nat} (v : Byte) (h : a' ≠ a) :
    Memory.read (Memory.write m a v) a' = Memory.read m a' := by
  unfold Memory.write
  split
  · exact Memory.read_erase_other m h
  · rw [Memory.read_insert_other _ v h, Memory.read_erase_other m h]

theorem Memory.risesFrom_mono {lo lo' : Nat} (h : lo ≤ lo') {m : List Host.Cell} (hm : Memory.risesFrom lo' m = true) :
    Memory.risesFrom lo m = true := by
  cases m with
  | nil => rfl
  | cons c rest =>
    obtain ⟨b, w⟩ := c
    simp only [Memory.risesFrom, Bool.and_eq_true, decide_eq_true_eq] at hm ⊢
    exact ⟨⟨⟨by omega, hm.1.1.2⟩, hm.1.2⟩, hm.2⟩

theorem Memory.risesFrom_erase (m : List Host.Cell) (a lo : Nat) (hm : Memory.risesFrom lo m = true) :
    Memory.risesFrom lo (Memory.erase m a) = true := by
  induction m generalizing lo with
  | nil => rfl
  | cons c rest ih =>
    obtain ⟨b, w⟩ := c
    simp only [Memory.risesFrom, Bool.and_eq_true, decide_eq_true_eq] at hm
    by_cases hb : b = a
    · simp only [Memory.erase, hb, if_true]
      exact ih lo (Memory.risesFrom_mono (by omega) hm.2)
    · simp only [Memory.erase, hb, if_false, Memory.risesFrom, Bool.and_eq_true, decide_eq_true_eq]
      exact ⟨hm.1, ih _ hm.2⟩

theorem Memory.risesFrom_insert (m : List Host.Cell) (a lo : Nat) (v : Byte) (ha : lo ≤ a) (ha' : a < 0x10000)
    (hv : v ≠ Config.unlistedByte) (hm : Memory.risesFrom lo m = true) :
    Memory.risesFrom lo (Memory.insert (Memory.erase m a) a v) = true := by
  induction m generalizing lo with
  | nil => simp [Memory.erase, Memory.insert, Memory.risesFrom, ha, ha', hv]
  | cons c rest ih =>
    obtain ⟨b, w⟩ := c
    simp only [Memory.risesFrom, Bool.and_eq_true, decide_eq_true_eq] at hm
    by_cases hb : b = a
    · simp only [Memory.erase, hb, if_true]
      exact ih lo ha (Memory.risesFrom_mono (by omega) hm.2)
    · by_cases hlt : a < b
      · have hrest := Memory.risesFrom_erase rest a _ hm.2
        simp [Memory.erase, Memory.insert, Memory.risesFrom, hb, hlt, ha, ha', hv, hrest, hm.1.1.2,
          show w ≠ Config.unlistedByte by simpa using hm.1.2, show a + 1 ≤ b by omega]
      · simp only [Memory.erase, Memory.insert, hb, hlt, if_false, Memory.risesFrom, Bool.and_eq_true,
          decide_eq_true_eq]
        exact ⟨hm.1, ih _ (by omega) hm.2⟩

/-- A write inside the address space keeps the canonical form. -/
theorem Memory.wf_write (m : List Host.Cell) (a : Nat) (v : Byte) (ha : a < 0x10000) (hm : Memory.wf m = true) :
    Memory.wf (Memory.write m a v) = true := by
  unfold Memory.write
  split
  · exact Memory.risesFrom_erase m a 0 hm
  · next hv => exact Memory.risesFrom_insert m a 0 v (Nat.zero_le a) ha hv hm

/-- A write at a 16-bit address keeps the canonical form. -/
theorem Memory.wf_write_word (m : List Host.Cell) (a : Word) (v : Byte) (hm : Memory.wf m = true) :
    Memory.wf (Memory.write m a.toNat v) = true := Memory.wf_write m a.toNat v a.isLt hm

end Sys2Proof.Machine
end

