-- ==== Sys2Proof/Laws/State.lean ====
section
/-!
SUPPORT. What each update of the state does to each field: the updated field, and every other one unchanged. Each lemma
is a conjunction, one equation a field, which simp uses one by one.
-/

namespace Sys2Proof.Machine

/-- What `setPc` leaves. -/
@[simp] theorem State.setPc_fields (s : State) (v : Word) :
    (s.setPc v).regs = s.regs ∧ (s.setPc v).alt = s.alt ∧ (s.setPc v).ix = s.ix ∧ (s.setPc v).iy = s.iy ∧
    (s.setPc v).sp = s.sp ∧ (s.setPc v).pc = v ∧ (s.setPc v).i = s.i ∧ (s.setPc v).r = s.r ∧
    (s.setPc v).iff1 = s.iff1 ∧ (s.setPc v).iff2 = s.iff2 ∧ (s.setPc v).im = s.im ∧ (s.setPc v).halted = s.halted ∧
    (s.setPc v).nmiLatch = s.nmiLatch ∧ (s.setPc v).intLine = s.intLine ∧ (s.setPc v).initialised = s.initialised ∧
    (s.setPc v).bus = s.bus ∧ (s.setPc v).provider = s.provider ∧ (s.setPc v).controlWritten = s.controlWritten ∧
    (s.setPc v).violation = s.violation ∧ (s.setPc v).mem = s.mem ∧ (s.setPc v).params = s.params ∧
    (s.setPc v).answers = s.answers ∧ (s.setPc v).trace = s.trace ∧ (s.setPc v).draws = s.draws := by
  refine ⟨rfl, rfl, rfl, rfl, rfl, rfl, rfl, rfl, rfl, rfl, rfl, rfl, rfl, rfl, rfl, rfl, rfl, rfl, rfl, rfl, rfl, rfl,
    rfl, rfl⟩

/-- What `setSp` leaves. -/
@[simp] theorem State.setSp_fields (s : State) (v : Word) :
    (s.setSp v).regs = s.regs ∧ (s.setSp v).alt = s.alt ∧ (s.setSp v).ix = s.ix ∧ (s.setSp v).iy = s.iy ∧
    (s.setSp v).sp = v ∧ (s.setSp v).pc = s.pc ∧ (s.setSp v).i = s.i ∧ (s.setSp v).r = s.r ∧
    (s.setSp v).iff1 = s.iff1 ∧ (s.setSp v).iff2 = s.iff2 ∧ (s.setSp v).im = s.im ∧ (s.setSp v).halted = s.halted ∧
    (s.setSp v).nmiLatch = s.nmiLatch ∧ (s.setSp v).intLine = s.intLine ∧ (s.setSp v).initialised = s.initialised ∧
    (s.setSp v).bus = s.bus ∧ (s.setSp v).provider = s.provider ∧ (s.setSp v).controlWritten = s.controlWritten ∧
    (s.setSp v).violation = s.violation ∧ (s.setSp v).mem = s.mem ∧ (s.setSp v).params = s.params ∧
    (s.setSp v).answers = s.answers ∧ (s.setSp v).trace = s.trace ∧ (s.setSp v).draws = s.draws := by
  refine ⟨rfl, rfl, rfl, rfl, rfl, rfl, rfl, rfl, rfl, rfl, rfl, rfl, rfl, rfl, rfl, rfl, rfl, rfl, rfl, rfl, rfl, rfl,
    rfl, rfl⟩

/-- What `logged` leaves. -/
@[simp] theorem State.logged_fields (s : State) (event : Config.BusEvent) :
    (s.logged event).regs = s.regs ∧ (s.logged event).alt = s.alt ∧ (s.logged event).ix = s.ix ∧
    (s.logged event).iy = s.iy ∧ (s.logged event).sp = s.sp ∧ (s.logged event).pc = s.pc ∧
    (s.logged event).i = s.i ∧ (s.logged event).r = s.r ∧ (s.logged event).iff1 = s.iff1 ∧
    (s.logged event).iff2 = s.iff2 ∧ (s.logged event).im = s.im ∧ (s.logged event).halted = s.halted ∧
    (s.logged event).nmiLatch = s.nmiLatch ∧ (s.logged event).intLine = s.intLine ∧
    (s.logged event).initialised = s.initialised ∧ (s.logged event).bus = s.bus ∧
    (s.logged event).provider = s.provider ∧ (s.logged event).controlWritten = s.controlWritten ∧
    (s.logged event).violation = s.violation ∧ (s.logged event).mem = s.mem ∧ (s.logged event).params = s.params ∧
    (s.logged event).answers = s.answers ∧ (s.logged event).trace = event :: s.trace ∧
    (s.logged event).draws = s.draws := by
  refine ⟨rfl, rfl, rfl, rfl, rfl, rfl, rfl, rfl, rfl, rfl, rfl, rfl, rfl, rfl, rfl, rfl, rfl, rfl, rfl, rfl, rfl, rfl,
    rfl, rfl⟩

/-- What an answer leaves. -/
@[simp] theorem State.answered_fields (s : State) (answer : Config.Answer) (event : Config.BusEvent) :
    (s.answered answer event).regs = s.regs ∧ (s.answered answer event).alt = s.alt ∧
    (s.answered answer event).ix = s.ix ∧ (s.answered answer event).iy = s.iy ∧
    (s.answered answer event).sp = s.sp ∧ (s.answered answer event).pc = s.pc ∧ (s.answered answer event).i = s.i ∧
    (s.answered answer event).r = s.r ∧ (s.answered answer event).iff1 = s.iff1 ∧
    (s.answered answer event).iff2 = s.iff2 ∧ (s.answered answer event).im = s.im ∧
    (s.answered answer event).halted = s.halted ∧ (s.answered answer event).nmiLatch = (s.nmiLatch || answer.nmi) ∧
    (s.answered answer event).intLine = answer.line.getD s.intLine ∧
    (s.answered answer event).initialised = s.initialised ∧ (s.answered answer event).bus = s.bus ∧
    (s.answered answer event).provider = s.provider ∧ (s.answered answer event).controlWritten = s.controlWritten ∧
    (s.answered answer event).violation = s.violation.or answer.call ∧ (s.answered answer event).mem = s.mem ∧
    (s.answered answer event).params = s.params ∧ (s.answered answer event).answers = s.answers.tail ∧
    (s.answered answer event).trace = event :: s.trace ∧ (s.answered answer event).draws = s.draws := by
  refine ⟨rfl, rfl, rfl, rfl, rfl, rfl, rfl, rfl, rfl, rfl, rfl, rfl, rfl, rfl, rfl, rfl, rfl, rfl, rfl, rfl, rfl, rfl,
    rfl, rfl⟩

/-- What `nextDraw` leaves. -/
@[simp] theorem State.nextDraw_fields (s : State) :
    s.nextDraw.regs = s.regs ∧ s.nextDraw.alt = s.alt ∧ s.nextDraw.ix = s.ix ∧ s.nextDraw.iy = s.iy ∧
    s.nextDraw.sp = s.sp ∧ s.nextDraw.pc = s.pc ∧ s.nextDraw.i = s.i ∧ s.nextDraw.r = s.r ∧
    s.nextDraw.iff1 = s.iff1 ∧ s.nextDraw.iff2 = s.iff2 ∧ s.nextDraw.im = s.im ∧ s.nextDraw.halted = s.halted ∧
    s.nextDraw.nmiLatch = s.nmiLatch ∧ s.nextDraw.intLine = s.intLine ∧ s.nextDraw.initialised = s.initialised ∧
    s.nextDraw.bus = s.bus ∧ s.nextDraw.provider = s.provider ∧ s.nextDraw.controlWritten = s.controlWritten ∧
    s.nextDraw.violation = s.violation ∧ s.nextDraw.mem = s.mem ∧ s.nextDraw.params = s.params ∧
    s.nextDraw.answers = s.answers ∧ s.nextDraw.trace = s.trace ∧ s.nextDraw.draws = s.draws + 1 := by
  refine ⟨rfl, rfl, rfl, rfl, rfl, rfl, rfl, rfl, rfl, rfl, rfl, rfl, rfl, rfl, rfl, rfl, rfl, rfl, rfl, rfl, rfl, rfl,
    rfl, rfl⟩

/-- What a write of `r8[k]` leaves. -/
@[simp] theorem State.setReg_fields (s : State) (r : Reg8) (v : Byte) :
    (s.setReg r v).regs = s.regs.set r v ∧ (s.setReg r v).alt = s.alt ∧ (s.setReg r v).ix = s.ix ∧
    (s.setReg r v).iy = s.iy ∧ (s.setReg r v).sp = s.sp ∧ (s.setReg r v).pc = s.pc ∧ (s.setReg r v).i = s.i ∧
    (s.setReg r v).r = s.r ∧ (s.setReg r v).iff1 = s.iff1 ∧ (s.setReg r v).iff2 = s.iff2 ∧
    (s.setReg r v).im = s.im ∧ (s.setReg r v).halted = s.halted ∧ (s.setReg r v).nmiLatch = s.nmiLatch ∧
    (s.setReg r v).intLine = s.intLine ∧ (s.setReg r v).initialised = s.initialised ∧ (s.setReg r v).bus = s.bus ∧
    (s.setReg r v).provider = s.provider ∧ (s.setReg r v).controlWritten = s.controlWritten ∧
    (s.setReg r v).violation = s.violation ∧ (s.setReg r v).mem = s.mem ∧ (s.setReg r v).params = s.params ∧
    (s.setReg r v).answers = s.answers ∧ (s.setReg r v).trace = s.trace ∧ (s.setReg r v).draws = s.draws := by
  refine ⟨rfl, rfl, rfl, rfl, rfl, rfl, rfl, rfl, rfl, rfl, rfl, rfl, rfl, rfl, rfl, rfl, rfl, rfl, rfl, rfl, rfl, rfl,
    rfl, rfl⟩

/-- What a write of A leaves. -/
@[simp] theorem State.setA_fields (s : State) (v : Byte) :
    (s.setA v).regs = { s.regs with a := v } ∧ (s.setA v).alt = s.alt ∧ (s.setA v).ix = s.ix ∧
    (s.setA v).iy = s.iy ∧ (s.setA v).sp = s.sp ∧ (s.setA v).pc = s.pc ∧ (s.setA v).i = s.i ∧ (s.setA v).r = s.r ∧
    (s.setA v).iff1 = s.iff1 ∧ (s.setA v).iff2 = s.iff2 ∧ (s.setA v).im = s.im ∧ (s.setA v).halted = s.halted ∧
    (s.setA v).nmiLatch = s.nmiLatch ∧ (s.setA v).intLine = s.intLine ∧ (s.setA v).initialised = s.initialised ∧
    (s.setA v).bus = s.bus ∧ (s.setA v).provider = s.provider ∧ (s.setA v).controlWritten = s.controlWritten ∧
    (s.setA v).violation = s.violation ∧ (s.setA v).mem = s.mem ∧ (s.setA v).params = s.params ∧
    (s.setA v).answers = s.answers ∧ (s.setA v).trace = s.trace ∧ (s.setA v).draws = s.draws := by
  refine ⟨rfl, rfl, rfl, rfl, rfl, rfl, rfl, rfl, rfl, rfl, rfl, rfl, rfl, rfl, rfl, rfl, rfl, rfl, rfl, rfl, rfl, rfl,
    rfl, rfl⟩

/-- What a write of F leaves. -/
@[simp] theorem State.setF_fields (s : State) (f : Flags) :
    (s.setF f).regs = { s.regs with f := f } ∧ (s.setF f).alt = s.alt ∧ (s.setF f).ix = s.ix ∧
    (s.setF f).iy = s.iy ∧ (s.setF f).sp = s.sp ∧ (s.setF f).pc = s.pc ∧ (s.setF f).i = s.i ∧ (s.setF f).r = s.r ∧
    (s.setF f).iff1 = s.iff1 ∧ (s.setF f).iff2 = s.iff2 ∧ (s.setF f).im = s.im ∧ (s.setF f).halted = s.halted ∧
    (s.setF f).nmiLatch = s.nmiLatch ∧ (s.setF f).intLine = s.intLine ∧ (s.setF f).initialised = s.initialised ∧
    (s.setF f).bus = s.bus ∧ (s.setF f).provider = s.provider ∧ (s.setF f).controlWritten = s.controlWritten ∧
    (s.setF f).violation = s.violation ∧ (s.setF f).mem = s.mem ∧ (s.setF f).params = s.params ∧
    (s.setF f).answers = s.answers ∧ (s.setF f).trace = s.trace ∧ (s.setF f).draws = s.draws := by
  refine ⟨rfl, rfl, rfl, rfl, rfl, rfl, rfl, rfl, rfl, rfl, rfl, rfl, rfl, rfl, rfl, rfl, rfl, rfl, rfl, rfl, rfl, rfl,
    rfl, rfl⟩

/-- What a write of BC leaves. -/
@[simp] theorem State.setBc_fields (s : State) (v : Word) :
    (s.setBc v).regs = { s.regs with b := hiByte v, c := loByte v } ∧ (s.setBc v).alt = s.alt ∧
    (s.setBc v).ix = s.ix ∧ (s.setBc v).iy = s.iy ∧ (s.setBc v).sp = s.sp ∧ (s.setBc v).pc = s.pc ∧
    (s.setBc v).i = s.i ∧ (s.setBc v).r = s.r ∧ (s.setBc v).iff1 = s.iff1 ∧ (s.setBc v).iff2 = s.iff2 ∧
    (s.setBc v).im = s.im ∧ (s.setBc v).halted = s.halted ∧ (s.setBc v).nmiLatch = s.nmiLatch ∧
    (s.setBc v).intLine = s.intLine ∧ (s.setBc v).initialised = s.initialised ∧ (s.setBc v).bus = s.bus ∧
    (s.setBc v).provider = s.provider ∧ (s.setBc v).controlWritten = s.controlWritten ∧
    (s.setBc v).violation = s.violation ∧ (s.setBc v).mem = s.mem ∧ (s.setBc v).params = s.params ∧
    (s.setBc v).answers = s.answers ∧ (s.setBc v).trace = s.trace ∧ (s.setBc v).draws = s.draws := by
  refine ⟨rfl, rfl, rfl, rfl, rfl, rfl, rfl, rfl, rfl, rfl, rfl, rfl, rfl, rfl, rfl, rfl, rfl, rfl, rfl, rfl, rfl, rfl,
    rfl, rfl⟩

/-- What a write of DE leaves. -/
@[simp] theorem State.setDe_fields (s : State) (v : Word) :
    (s.setDe v).regs = { s.regs with d := hiByte v, e := loByte v } ∧ (s.setDe v).alt = s.alt ∧
    (s.setDe v).ix = s.ix ∧ (s.setDe v).iy = s.iy ∧ (s.setDe v).sp = s.sp ∧ (s.setDe v).pc = s.pc ∧
    (s.setDe v).i = s.i ∧ (s.setDe v).r = s.r ∧ (s.setDe v).iff1 = s.iff1 ∧ (s.setDe v).iff2 = s.iff2 ∧
    (s.setDe v).im = s.im ∧ (s.setDe v).halted = s.halted ∧ (s.setDe v).nmiLatch = s.nmiLatch ∧
    (s.setDe v).intLine = s.intLine ∧ (s.setDe v).initialised = s.initialised ∧ (s.setDe v).bus = s.bus ∧
    (s.setDe v).provider = s.provider ∧ (s.setDe v).controlWritten = s.controlWritten ∧
    (s.setDe v).violation = s.violation ∧ (s.setDe v).mem = s.mem ∧ (s.setDe v).params = s.params ∧
    (s.setDe v).answers = s.answers ∧ (s.setDe v).trace = s.trace ∧ (s.setDe v).draws = s.draws := by
  refine ⟨rfl, rfl, rfl, rfl, rfl, rfl, rfl, rfl, rfl, rfl, rfl, rfl, rfl, rfl, rfl, rfl, rfl, rfl, rfl, rfl, rfl, rfl,
    rfl, rfl⟩

/-- What a write of HL leaves. -/
@[simp] theorem State.setHl_fields (s : State) (v : Word) :
    (s.setHl v).regs = { s.regs with h := hiByte v, l := loByte v } ∧ (s.setHl v).alt = s.alt ∧
    (s.setHl v).ix = s.ix ∧ (s.setHl v).iy = s.iy ∧ (s.setHl v).sp = s.sp ∧ (s.setHl v).pc = s.pc ∧
    (s.setHl v).i = s.i ∧ (s.setHl v).r = s.r ∧ (s.setHl v).iff1 = s.iff1 ∧ (s.setHl v).iff2 = s.iff2 ∧
    (s.setHl v).im = s.im ∧ (s.setHl v).halted = s.halted ∧ (s.setHl v).nmiLatch = s.nmiLatch ∧
    (s.setHl v).intLine = s.intLine ∧ (s.setHl v).initialised = s.initialised ∧ (s.setHl v).bus = s.bus ∧
    (s.setHl v).provider = s.provider ∧ (s.setHl v).controlWritten = s.controlWritten ∧
    (s.setHl v).violation = s.violation ∧ (s.setHl v).mem = s.mem ∧ (s.setHl v).params = s.params ∧
    (s.setHl v).answers = s.answers ∧ (s.setHl v).trace = s.trace ∧ (s.setHl v).draws = s.draws := by
  refine ⟨rfl, rfl, rfl, rfl, rfl, rfl, rfl, rfl, rfl, rfl, rfl, rfl, rfl, rfl, rfl, rfl, rfl, rfl, rfl, rfl, rfl, rfl,
    rfl, rfl⟩

/-- What a relative jump leaves. -/
@[simp] theorem State.jumpRelative_fields (s : State) (e : Byte) :
    (s.jumpRelative e).regs = s.regs ∧ (s.jumpRelative e).alt = s.alt ∧ (s.jumpRelative e).ix = s.ix ∧
    (s.jumpRelative e).iy = s.iy ∧ (s.jumpRelative e).sp = s.sp ∧ (s.jumpRelative e).pc = s.pc + signExtend16 e ∧
    (s.jumpRelative e).i = s.i ∧ (s.jumpRelative e).r = s.r ∧ (s.jumpRelative e).iff1 = s.iff1 ∧
    (s.jumpRelative e).iff2 = s.iff2 ∧ (s.jumpRelative e).im = s.im ∧ (s.jumpRelative e).halted = s.halted ∧
    (s.jumpRelative e).nmiLatch = s.nmiLatch ∧ (s.jumpRelative e).intLine = s.intLine ∧
    (s.jumpRelative e).initialised = s.initialised ∧ (s.jumpRelative e).bus = s.bus ∧
    (s.jumpRelative e).provider = s.provider ∧ (s.jumpRelative e).controlWritten = s.controlWritten ∧
    (s.jumpRelative e).violation = s.violation ∧ (s.jumpRelative e).mem = s.mem ∧
    (s.jumpRelative e).params = s.params ∧ (s.jumpRelative e).answers = s.answers ∧
    (s.jumpRelative e).trace = s.trace ∧ (s.jumpRelative e).draws = s.draws := by
  refine ⟨rfl, rfl, rfl, rfl, rfl, rfl, rfl, rfl, rfl, rfl, rfl, rfl, rfl, rfl, rfl, rfl, rfl, rfl, rfl, rfl, rfl, rfl,
    rfl, rfl⟩

/-- What a write of F with its draws leaves. -/
@[simp] theorem State.putFlags_fields (s : State) (always undefined f : Flags) :

    (s.putFlags always undefined f).regs = { s.regs with
      f := Flags.mix (s.drawMask always undefined) (Flags.ofByte (Config.freeFlags s.draws)) f } ∧
    (s.putFlags always undefined f).alt = s.alt ∧ (s.putFlags always undefined f).ix = s.ix ∧
    (s.putFlags always undefined f).iy = s.iy ∧ (s.putFlags always undefined f).sp = s.sp ∧
    (s.putFlags always undefined f).pc = s.pc ∧ (s.putFlags always undefined f).i = s.i ∧
    (s.putFlags always undefined f).r = s.r ∧ (s.putFlags always undefined f).iff1 = s.iff1 ∧
    (s.putFlags always undefined f).iff2 = s.iff2 ∧ (s.putFlags always undefined f).im = s.im ∧
    (s.putFlags always undefined f).halted = s.halted ∧ (s.putFlags always undefined f).nmiLatch = s.nmiLatch ∧
    (s.putFlags always undefined f).intLine = s.intLine ∧
    (s.putFlags always undefined f).initialised = s.initialised ∧ (s.putFlags always undefined f).bus = s.bus ∧
    (s.putFlags always undefined f).provider = s.provider ∧
    (s.putFlags always undefined f).controlWritten = s.controlWritten ∧
    (s.putFlags always undefined f).violation = s.violation ∧ (s.putFlags always undefined f).mem = s.mem ∧
    (s.putFlags always undefined f).params = s.params ∧ (s.putFlags always undefined f).answers = s.answers ∧
    (s.putFlags always undefined f).trace = s.trace ∧ (s.putFlags always undefined f).draws = s.draws := by
  refine ⟨rfl, rfl, rfl, rfl, rfl, rfl, rfl, rfl, rfl, rfl, rfl, rfl, rfl, rfl, rfl, rfl, rfl, rfl, rfl, rfl, rfl, rfl,
    rfl, rfl⟩

/-- What a write of F with Y and X undocumented leaves. -/
@[simp] theorem State.putXY_fields (s : State) (f : Flags) :

    (s.putXY f).regs = { s.regs with
      f := Flags.mix (s.drawMask Flags.none Flags.maskXY) (Flags.ofByte (Config.freeFlags s.draws)) f } ∧
    (s.putXY f).alt = s.alt ∧ (s.putXY f).ix = s.ix ∧ (s.putXY f).iy = s.iy ∧ (s.putXY f).sp = s.sp ∧
    (s.putXY f).pc = s.pc ∧ (s.putXY f).i = s.i ∧ (s.putXY f).r = s.r ∧ (s.putXY f).iff1 = s.iff1 ∧
    (s.putXY f).iff2 = s.iff2 ∧ (s.putXY f).im = s.im ∧ (s.putXY f).halted = s.halted ∧
    (s.putXY f).nmiLatch = s.nmiLatch ∧ (s.putXY f).intLine = s.intLine ∧ (s.putXY f).initialised = s.initialised ∧
    (s.putXY f).bus = s.bus ∧ (s.putXY f).provider = s.provider ∧ (s.putXY f).controlWritten = s.controlWritten ∧
    (s.putXY f).violation = s.violation ∧ (s.putXY f).mem = s.mem ∧ (s.putXY f).params = s.params ∧
    (s.putXY f).answers = s.answers ∧ (s.putXY f).trace = s.trace ∧ (s.putXY f).draws = s.draws := by
  refine ⟨rfl, rfl, rfl, rfl, rfl, rfl, rfl, rfl, rfl, rfl, rfl, rfl, rfl, rfl, rfl, rfl, rfl, rfl, rfl, rfl, rfl, rfl,
    rfl, rfl⟩

/-- What `TriggerNMI` leaves. -/
@[simp] theorem State.triggerNmi_fields (s : State) :
    s.triggerNmi.regs = s.regs ∧ s.triggerNmi.alt = s.alt ∧ s.triggerNmi.ix = s.ix ∧ s.triggerNmi.iy = s.iy ∧
    s.triggerNmi.sp = s.sp ∧ s.triggerNmi.pc = s.pc ∧ s.triggerNmi.i = s.i ∧ s.triggerNmi.r = s.r ∧
    s.triggerNmi.iff1 = s.iff1 ∧ s.triggerNmi.iff2 = s.iff2 ∧ s.triggerNmi.im = s.im ∧
    s.triggerNmi.halted = s.halted ∧ s.triggerNmi.nmiLatch = true ∧ s.triggerNmi.intLine = s.intLine ∧
    s.triggerNmi.initialised = s.initialised ∧ s.triggerNmi.bus = s.bus ∧ s.triggerNmi.provider = s.provider ∧
    s.triggerNmi.controlWritten = s.controlWritten ∧ s.triggerNmi.violation = s.violation ∧
    s.triggerNmi.mem = s.mem ∧ s.triggerNmi.params = s.params ∧ s.triggerNmi.answers = s.answers ∧
    s.triggerNmi.trace = s.trace ∧ s.triggerNmi.draws = s.draws := by
  refine ⟨rfl, rfl, rfl, rfl, rfl, rfl, rfl, rfl, rfl, rfl, rfl, rfl, rfl, rfl, rfl, rfl, rfl, rfl, rfl, rfl, rfl, rfl,
    rfl, rfl⟩

/-- What `SetLevelInterrupt` leaves. -/
@[simp] theorem State.setLevelInterrupt_fields (s : State) (active : Bool) :
    (s.setLevelInterrupt active).regs = s.regs ∧ (s.setLevelInterrupt active).alt = s.alt ∧
    (s.setLevelInterrupt active).ix = s.ix ∧ (s.setLevelInterrupt active).iy = s.iy ∧
    (s.setLevelInterrupt active).sp = s.sp ∧ (s.setLevelInterrupt active).pc = s.pc ∧
    (s.setLevelInterrupt active).i = s.i ∧ (s.setLevelInterrupt active).r = s.r ∧
    (s.setLevelInterrupt active).iff1 = s.iff1 ∧ (s.setLevelInterrupt active).iff2 = s.iff2 ∧
    (s.setLevelInterrupt active).im = s.im ∧ (s.setLevelInterrupt active).halted = s.halted ∧
    (s.setLevelInterrupt active).nmiLatch = s.nmiLatch ∧ (s.setLevelInterrupt active).intLine = active ∧
    (s.setLevelInterrupt active).initialised = s.initialised ∧ (s.setLevelInterrupt active).bus = s.bus ∧
    (s.setLevelInterrupt active).provider = s.provider ∧
    (s.setLevelInterrupt active).controlWritten = s.controlWritten ∧
    (s.setLevelInterrupt active).violation = s.violation ∧ (s.setLevelInterrupt active).mem = s.mem ∧
    (s.setLevelInterrupt active).params = s.params ∧ (s.setLevelInterrupt active).answers = s.answers ∧
    (s.setLevelInterrupt active).trace = s.trace ∧ (s.setLevelInterrupt active).draws = s.draws := by
  refine ⟨rfl, rfl, rfl, rfl, rfl, rfl, rfl, rfl, rfl, rfl, rfl, rfl, rfl, rfl, rfl, rfl, rfl, rfl, rfl, rfl, rfl, rfl,
    rfl, rfl⟩

/-- What a write of `rp[p]` leaves of the fields it never writes. -/
@[simp] theorem State.setPair_fields (s : State) (p : Rp) (v : Word) :
    (s.setPair p v).alt = s.alt ∧ (s.setPair p v).ix = s.ix ∧ (s.setPair p v).iy = s.iy ∧
    (s.setPair p v).pc = s.pc ∧ (s.setPair p v).i = s.i ∧ (s.setPair p v).r = s.r ∧ (s.setPair p v).iff1 = s.iff1 ∧
    (s.setPair p v).iff2 = s.iff2 ∧ (s.setPair p v).im = s.im ∧ (s.setPair p v).halted = s.halted ∧
    (s.setPair p v).nmiLatch = s.nmiLatch ∧ (s.setPair p v).intLine = s.intLine ∧
    (s.setPair p v).initialised = s.initialised ∧ (s.setPair p v).bus = s.bus ∧
    (s.setPair p v).provider = s.provider ∧ (s.setPair p v).controlWritten = s.controlWritten ∧
    (s.setPair p v).violation = s.violation ∧ (s.setPair p v).mem = s.mem ∧ (s.setPair p v).params = s.params ∧
    (s.setPair p v).answers = s.answers ∧ (s.setPair p v).trace = s.trace ∧ (s.setPair p v).draws = s.draws := by
  cases p <;> simp [State.setPair]

/-- What a write of `rp2[p]` leaves of the fields it never writes. -/
@[simp] theorem State.setPair2_fields (s : State) (p : Rp2) (v : Word) :
    (s.setPair2 p v).alt = s.alt ∧ (s.setPair2 p v).ix = s.ix ∧ (s.setPair2 p v).iy = s.iy ∧
    (s.setPair2 p v).sp = s.sp ∧ (s.setPair2 p v).pc = s.pc ∧ (s.setPair2 p v).i = s.i ∧ (s.setPair2 p v).r = s.r ∧
    (s.setPair2 p v).iff1 = s.iff1 ∧ (s.setPair2 p v).iff2 = s.iff2 ∧ (s.setPair2 p v).im = s.im ∧
    (s.setPair2 p v).halted = s.halted ∧ (s.setPair2 p v).nmiLatch = s.nmiLatch ∧
    (s.setPair2 p v).intLine = s.intLine ∧ (s.setPair2 p v).initialised = s.initialised ∧
    (s.setPair2 p v).bus = s.bus ∧ (s.setPair2 p v).provider = s.provider ∧
    (s.setPair2 p v).controlWritten = s.controlWritten ∧ (s.setPair2 p v).violation = s.violation ∧
    (s.setPair2 p v).mem = s.mem ∧ (s.setPair2 p v).params = s.params ∧ (s.setPair2 p v).answers = s.answers ∧
    (s.setPair2 p v).trace = s.trace ∧ (s.setPair2 p v).draws = s.draws := by
  cases p <;> simp [State.setPair2]

/-- What a write of an index register leaves of the fields it never writes. -/
@[simp] theorem State.setIdx_fields (s : State) (j : Idx) (v : Word) :
    (s.setIdx j v).regs = s.regs ∧ (s.setIdx j v).alt = s.alt ∧ (s.setIdx j v).sp = s.sp ∧
    (s.setIdx j v).pc = s.pc ∧ (s.setIdx j v).i = s.i ∧ (s.setIdx j v).r = s.r ∧ (s.setIdx j v).iff1 = s.iff1 ∧
    (s.setIdx j v).iff2 = s.iff2 ∧ (s.setIdx j v).im = s.im ∧ (s.setIdx j v).halted = s.halted ∧
    (s.setIdx j v).nmiLatch = s.nmiLatch ∧ (s.setIdx j v).intLine = s.intLine ∧
    (s.setIdx j v).initialised = s.initialised ∧ (s.setIdx j v).bus = s.bus ∧
    (s.setIdx j v).provider = s.provider ∧ (s.setIdx j v).controlWritten = s.controlWritten ∧
    (s.setIdx j v).violation = s.violation ∧ (s.setIdx j v).mem = s.mem ∧ (s.setIdx j v).params = s.params ∧
    (s.setIdx j v).answers = s.answers ∧ (s.setIdx j v).trace = s.trace ∧ (s.setIdx j v).draws = s.draws := by
  cases j <;> simp [State.setIdx]

/-- What a write of a half of an index register leaves of the fields it never writes. -/
@[simp] theorem State.setHalf_fields (s : State) (j : Idx) (h : Half) (v : Byte) :
    (s.setHalf j h v).regs = s.regs ∧ (s.setHalf j h v).alt = s.alt ∧ (s.setHalf j h v).sp = s.sp ∧
    (s.setHalf j h v).pc = s.pc ∧ (s.setHalf j h v).i = s.i ∧ (s.setHalf j h v).r = s.r ∧
    (s.setHalf j h v).iff1 = s.iff1 ∧ (s.setHalf j h v).iff2 = s.iff2 ∧ (s.setHalf j h v).im = s.im ∧
    (s.setHalf j h v).halted = s.halted ∧ (s.setHalf j h v).nmiLatch = s.nmiLatch ∧
    (s.setHalf j h v).intLine = s.intLine ∧ (s.setHalf j h v).initialised = s.initialised ∧
    (s.setHalf j h v).bus = s.bus ∧ (s.setHalf j h v).provider = s.provider ∧
    (s.setHalf j h v).controlWritten = s.controlWritten ∧ (s.setHalf j h v).violation = s.violation ∧
    (s.setHalf j h v).mem = s.mem ∧ (s.setHalf j h v).params = s.params ∧ (s.setHalf j h v).answers = s.answers ∧
    (s.setHalf j h v).trace = s.trace ∧ (s.setHalf j h v).draws = s.draws := by
  cases h <;> simp [State.setHalf]

/-- What a write of `r8x[k]` leaves of the fields it never writes. -/
@[simp] theorem State.setRegX_fields (s : State) (j : Idx) (x : RegX) (v : Byte) :
    (s.setRegX j x v).alt = s.alt ∧ (s.setRegX j x v).sp = s.sp ∧ (s.setRegX j x v).pc = s.pc ∧
    (s.setRegX j x v).i = s.i ∧ (s.setRegX j x v).r = s.r ∧ (s.setRegX j x v).iff1 = s.iff1 ∧
    (s.setRegX j x v).iff2 = s.iff2 ∧ (s.setRegX j x v).im = s.im ∧ (s.setRegX j x v).halted = s.halted ∧
    (s.setRegX j x v).nmiLatch = s.nmiLatch ∧ (s.setRegX j x v).intLine = s.intLine ∧
    (s.setRegX j x v).initialised = s.initialised ∧ (s.setRegX j x v).bus = s.bus ∧
    (s.setRegX j x v).provider = s.provider ∧ (s.setRegX j x v).controlWritten = s.controlWritten ∧
    (s.setRegX j x v).violation = s.violation ∧ (s.setRegX j x v).mem = s.mem ∧
    (s.setRegX j x v).params = s.params ∧ (s.setRegX j x v).answers = s.answers ∧
    (s.setRegX j x v).trace = s.trace ∧ (s.setRegX j x v).draws = s.draws := by
  cases x <;> simp [State.setRegX]

/-- What counting R leaves of the fields it never writes. -/
@[simp] theorem State.countR_fields (s : State) (n : Nat) :
    (s.countR n).regs = s.regs ∧ (s.countR n).alt = s.alt ∧ (s.countR n).ix = s.ix ∧ (s.countR n).iy = s.iy ∧
    (s.countR n).sp = s.sp ∧ (s.countR n).pc = s.pc ∧ (s.countR n).i = s.i ∧ (s.countR n).iff1 = s.iff1 ∧
    (s.countR n).iff2 = s.iff2 ∧ (s.countR n).im = s.im ∧ (s.countR n).halted = s.halted ∧
    (s.countR n).nmiLatch = s.nmiLatch ∧ (s.countR n).intLine = s.intLine ∧
    (s.countR n).initialised = s.initialised ∧ (s.countR n).bus = s.bus ∧ (s.countR n).provider = s.provider ∧
    (s.countR n).controlWritten = s.controlWritten ∧ (s.countR n).violation = s.violation ∧
    (s.countR n).mem = s.mem ∧ (s.countR n).params = s.params ∧ (s.countR n).answers = s.answers ∧
    (s.countR n).trace = s.trace ∧ (s.countR n).draws = s.draws := by
  unfold State.countR; split <;> simp

/-- What the draw of R leaves of the fields it never writes. -/
@[simp] theorem State.drawR_fields (s : State) :
    s.drawR.regs = s.regs ∧ s.drawR.alt = s.alt ∧ s.drawR.ix = s.ix ∧ s.drawR.iy = s.iy ∧ s.drawR.sp = s.sp ∧
    s.drawR.pc = s.pc ∧ s.drawR.i = s.i ∧ s.drawR.iff1 = s.iff1 ∧ s.drawR.iff2 = s.iff2 ∧ s.drawR.im = s.im ∧
    s.drawR.halted = s.halted ∧ s.drawR.nmiLatch = s.nmiLatch ∧ s.drawR.intLine = s.intLine ∧
    s.drawR.initialised = s.initialised ∧ s.drawR.bus = s.bus ∧ s.drawR.provider = s.provider ∧
    s.drawR.controlWritten = s.controlWritten ∧ s.drawR.violation = s.violation ∧ s.drawR.mem = s.mem ∧
    s.drawR.params = s.params ∧ s.drawR.answers = s.answers ∧ s.drawR.trace = s.trace ∧ s.drawR.draws = s.draws := by
  unfold State.drawR; split <;> simp

end Sys2Proof.Machine
end

