-- ==== Sys2Proof/Laws/Ops.lean ====
section
/-!
SUPPORT. One lemma for each shared operation, saying everything it can do: which fields it never writes, what it does to
memory, the bytes and words it answers, and that it keeps plain memory in its canonical form.
-/

namespace Sys2Proof.Machine

/-! ### Bytes and words -/

theorem joinBytes_toNat (h l : Byte) : (joinBytes h l).toNat = h.toNat * 256 + l.toNat := by
  show (h ++ l : BitVec (8 + 8)).toNat = _
  rw [BitVec.toNat_append, ← Nat.shiftLeft_add_eq_or_of_lt l.isLt, Nat.shiftLeft_eq]

theorem hiByte_toNat (v : Word) : (hiByte v).toNat = v.toNat / 256 := by
  simp [hiByte, Nat.shiftRight_eq_div_pow]; omega

theorem loByte_toNat (v : Word) : (loByte v).toNat = v.toNat % 256 := by
  simp [loByte]

@[simp] theorem hiByte_joinBytes (h l : Byte) : hiByte (joinBytes h l) = h := by
  apply BitVec.eq_of_toNat_eq; rw [hiByte_toNat, joinBytes_toNat]; omega

@[simp] theorem loByte_joinBytes (h l : Byte) : loByte (joinBytes h l) = l := by
  apply BitVec.eq_of_toNat_eq; rw [loByte_toNat, joinBytes_toNat]; omega

@[simp] theorem joinBytes_hiByte_loByte (v : Word) : joinBytes (hiByte v) (loByte v) = v := by
  apply BitVec.eq_of_toNat_eq; rw [joinBytes_toNat, hiByte_toNat, loByte_toNat]; omega

theorem word_sub_two (a : Word) : a - 1 - 1 = a - 2 := by bv_omega

theorem word_add_two (a : Word) : a + 1 + 1 = a + 2 := by bv_omega

@[simp] theorem Flags.ofByte_toByte (f : Flags) : Flags.ofByte f.toByte = f := by
  obtain ⟨s, z, y, h, x, pv, n, c⟩ := f
  revert s z y h x pv n c
  decide

@[simp] theorem Flags.toByte_ofByte (v : Byte) : (Flags.ofByte v).toByte = v := by
  revert v
  decide +kernel

/-! ### The Bus -/

/-- Whether a device answers at an address depends on the Bus alone. -/
theorem State.isDevice_congr {s t : State} (h : t.bus = s.bus) (a : Word) : t.isDevice a = s.isDevice a := by
  simp [State.isDevice, h]

/-- What a memory read leaves of the fields it never writes. -/
@[simp] theorem State.memRead_fields (s : State) (a : Word) :
    (s.memRead a).2.regs = s.regs ∧ (s.memRead a).2.alt = s.alt ∧ (s.memRead a).2.ix = s.ix ∧
    (s.memRead a).2.iy = s.iy ∧ (s.memRead a).2.sp = s.sp ∧ (s.memRead a).2.pc = s.pc ∧ (s.memRead a).2.i = s.i ∧
    (s.memRead a).2.r = s.r ∧ (s.memRead a).2.iff1 = s.iff1 ∧ (s.memRead a).2.iff2 = s.iff2 ∧
    (s.memRead a).2.im = s.im ∧ (s.memRead a).2.halted = s.halted ∧ (s.memRead a).2.initialised = s.initialised ∧
    (s.memRead a).2.bus = s.bus ∧ (s.memRead a).2.provider = s.provider ∧
    (s.memRead a).2.controlWritten = s.controlWritten ∧ (s.memRead a).2.mem = s.mem ∧
    (s.memRead a).2.params = s.params ∧ (s.memRead a).2.draws = s.draws := by
  unfold State.memRead; split <;> simp

/-- What a memory write leaves of the fields it never writes. -/
@[simp] theorem State.memWrite_fields (s : State) (a : Word) (v : Byte) :
    (s.memWrite a v).regs = s.regs ∧ (s.memWrite a v).alt = s.alt ∧ (s.memWrite a v).ix = s.ix ∧
    (s.memWrite a v).iy = s.iy ∧ (s.memWrite a v).sp = s.sp ∧ (s.memWrite a v).pc = s.pc ∧
    (s.memWrite a v).i = s.i ∧ (s.memWrite a v).r = s.r ∧ (s.memWrite a v).iff1 = s.iff1 ∧
    (s.memWrite a v).iff2 = s.iff2 ∧ (s.memWrite a v).im = s.im ∧ (s.memWrite a v).halted = s.halted ∧
    (s.memWrite a v).initialised = s.initialised ∧ (s.memWrite a v).bus = s.bus ∧
    (s.memWrite a v).provider = s.provider ∧ (s.memWrite a v).controlWritten = s.controlWritten ∧
    (s.memWrite a v).params = s.params ∧ (s.memWrite a v).draws = s.draws := by
  unfold State.memWrite; split <;> simp

/-- What a memory write does to plain memory: a device's byte never reaches it. -/
theorem State.memWrite_mem (s : State) (a : Word) (v : Byte) :
    (s.memWrite a v).mem = if s.isDevice a then s.mem else Memory.write s.mem a.toNat v := by
  unfold State.memWrite; split <;> simp

/-- A read of plain memory: the byte it holds, and the access recorded. -/
theorem State.memRead_plain (s : State) {a : Word} (h : s.isDevice a = false) :
    s.memRead a = (Memory.read s.mem a.toNat, s.logged (.memRead a (Memory.read s.mem a.toNat))) := by
  simp [State.memRead, h]

/-- A write of plain memory: the byte stored, and the access recorded. -/
theorem State.memWrite_plain (s : State) {a : Word} (v : Byte) (h : s.isDevice a = false) :
    s.memWrite a v = { s with mem := Memory.write s.mem a.toNat v, trace := .memWrite a v :: s.trace } := by
  simp [State.memWrite, h]

/-- Every memory read is one access, recorded with the byte it answered. -/
@[simp] theorem State.memRead_trace (s : State) (a : Word) :
    (s.memRead a).2.trace = .memRead a (s.memRead a).1 :: s.trace := by
  unfold State.memRead; split <;> simp

/-- Every memory write is one access. -/
@[simp] theorem State.memWrite_trace (s : State) (a : Word) (v : Byte) :
    (s.memWrite a v).trace = .memWrite a v :: s.trace := by
  unfold State.memWrite; split <;> simp

@[simp] theorem State.isDevice_memRead (s : State) (a b : Word) : (s.memRead a).2.isDevice b = s.isDevice b :=
  State.isDevice_congr (by simp) b

@[simp] theorem State.isDevice_memWrite (s : State) (a b : Word) (v : Byte) :
    (s.memWrite a v).isDevice b = s.isDevice b := State.isDevice_congr (by simp) b

@[simp] theorem State.isDevice_setSp (s : State) (v a : Word) : (s.setSp v).isDevice a = s.isDevice a := rfl

@[simp] theorem State.isDevice_setPc (s : State) (v a : Word) : (s.setPc v).isDevice a = s.isDevice a := rfl

@[simp] theorem State.isDevice_logged (s : State) (e : Config.BusEvent) (a : Word) :
    (s.logged e).isDevice a = s.isDevice a := rfl

/-- A memory write keeps the canonical form. -/
theorem State.memWrite_wf (s : State) (a : Word) (v : Byte) (h : Memory.wf s.mem = true) :
    Memory.wf (s.memWrite a v).mem = true := by
  rw [State.memWrite_mem]
  split
  · exact h
  · exact Memory.wf_write_word _ _ _ h

/-- What a plain address holds after a write: the byte at the address written, if no device answers there. -/
theorem State.read_memWrite (s : State) (a b : Word) (v : Byte) :
    Memory.read (s.memWrite a v).mem b.toNat = if b = a ∧ s.isDevice a = false then v else Memory.read s.mem b.toNat := by
  rw [State.memWrite_mem]
  by_cases hd : s.isDevice a = true
  · simp [hd]
  · by_cases hb : b = a
    · subst hb
      simp [hd]
    · have : b.toNat ≠ a.toNat := fun h => hb (BitVec.eq_of_toNat_eq h)
      simp [hd, hb, Memory.read_write_other _ _ this]

/-- A write leaves what every other address holds. -/
theorem State.read_memWrite_other (s : State) {a b : Word} (v : Byte) (h : b ≠ a) :
    Memory.read (s.memWrite a v).mem b.toNat = Memory.read s.mem b.toNat := by
  rw [State.read_memWrite]; simp [h]

/-- What a port read leaves of the fields it never writes. -/
@[simp] theorem State.ioRead_fields (s : State) (port : Word) :
    (s.ioRead port).2.regs = s.regs ∧ (s.ioRead port).2.alt = s.alt ∧ (s.ioRead port).2.ix = s.ix ∧
    (s.ioRead port).2.iy = s.iy ∧ (s.ioRead port).2.sp = s.sp ∧ (s.ioRead port).2.pc = s.pc ∧
    (s.ioRead port).2.i = s.i ∧ (s.ioRead port).2.r = s.r ∧ (s.ioRead port).2.iff1 = s.iff1 ∧
    (s.ioRead port).2.iff2 = s.iff2 ∧ (s.ioRead port).2.im = s.im ∧ (s.ioRead port).2.halted = s.halted ∧
    (s.ioRead port).2.initialised = s.initialised ∧ (s.ioRead port).2.bus = s.bus ∧
    (s.ioRead port).2.provider = s.provider ∧ (s.ioRead port).2.controlWritten = s.controlWritten ∧
    (s.ioRead port).2.mem = s.mem ∧ (s.ioRead port).2.params = s.params ∧ (s.ioRead port).2.draws = s.draws := by
  simp [State.ioRead]

/-- What a port write leaves of the fields it never writes. -/
@[simp] theorem State.ioWrite_fields (s : State) (port : Word) (v : Byte) :
    (s.ioWrite port v).regs = s.regs ∧ (s.ioWrite port v).alt = s.alt ∧ (s.ioWrite port v).ix = s.ix ∧
    (s.ioWrite port v).iy = s.iy ∧ (s.ioWrite port v).sp = s.sp ∧ (s.ioWrite port v).pc = s.pc ∧
    (s.ioWrite port v).i = s.i ∧ (s.ioWrite port v).r = s.r ∧ (s.ioWrite port v).iff1 = s.iff1 ∧
    (s.ioWrite port v).iff2 = s.iff2 ∧ (s.ioWrite port v).im = s.im ∧ (s.ioWrite port v).halted = s.halted ∧
    (s.ioWrite port v).initialised = s.initialised ∧ (s.ioWrite port v).bus = s.bus ∧
    (s.ioWrite port v).provider = s.provider ∧ (s.ioWrite port v).controlWritten = s.controlWritten ∧
    (s.ioWrite port v).mem = s.mem ∧ (s.ioWrite port v).params = s.params ∧ (s.ioWrite port v).draws = s.draws := by
  simp [State.ioWrite]

/-- What a call of the provider leaves of the fields it never writes. -/
@[simp] theorem State.callProvider_fields (s : State) :
    s.callProvider.2.regs = s.regs ∧ s.callProvider.2.alt = s.alt ∧ s.callProvider.2.ix = s.ix ∧
    s.callProvider.2.iy = s.iy ∧ s.callProvider.2.sp = s.sp ∧ s.callProvider.2.pc = s.pc ∧
    s.callProvider.2.i = s.i ∧ s.callProvider.2.r = s.r ∧ s.callProvider.2.iff1 = s.iff1 ∧
    s.callProvider.2.iff2 = s.iff2 ∧ s.callProvider.2.im = s.im ∧ s.callProvider.2.halted = s.halted ∧
    s.callProvider.2.initialised = s.initialised ∧ s.callProvider.2.bus = s.bus ∧
    s.callProvider.2.provider = s.provider ∧ s.callProvider.2.controlWritten = s.controlWritten ∧
    s.callProvider.2.mem = s.mem ∧ s.callProvider.2.params = s.params ∧ s.callProvider.2.draws = s.draws := by
  simp [State.callProvider]

/-- What a two-byte read leaves of the fields it never writes. -/
@[simp] theorem State.memRead16_fields (s : State) (a : Word) :
    (s.memRead16 a).2.regs = s.regs ∧ (s.memRead16 a).2.alt = s.alt ∧ (s.memRead16 a).2.ix = s.ix ∧
    (s.memRead16 a).2.iy = s.iy ∧ (s.memRead16 a).2.sp = s.sp ∧ (s.memRead16 a).2.pc = s.pc ∧
    (s.memRead16 a).2.i = s.i ∧ (s.memRead16 a).2.r = s.r ∧ (s.memRead16 a).2.iff1 = s.iff1 ∧
    (s.memRead16 a).2.iff2 = s.iff2 ∧ (s.memRead16 a).2.im = s.im ∧ (s.memRead16 a).2.halted = s.halted ∧
    (s.memRead16 a).2.initialised = s.initialised ∧ (s.memRead16 a).2.bus = s.bus ∧
    (s.memRead16 a).2.provider = s.provider ∧ (s.memRead16 a).2.controlWritten = s.controlWritten ∧
    (s.memRead16 a).2.mem = s.mem ∧ (s.memRead16 a).2.params = s.params ∧ (s.memRead16 a).2.draws = s.draws := by
  simp [State.memRead16]

/-- What a two-byte write leaves of the fields it never writes. -/
@[simp] theorem State.memWrite16_fields (s : State) (a v : Word) :
    (s.memWrite16 a v).regs = s.regs ∧ (s.memWrite16 a v).alt = s.alt ∧ (s.memWrite16 a v).ix = s.ix ∧
    (s.memWrite16 a v).iy = s.iy ∧ (s.memWrite16 a v).sp = s.sp ∧ (s.memWrite16 a v).pc = s.pc ∧
    (s.memWrite16 a v).i = s.i ∧ (s.memWrite16 a v).r = s.r ∧ (s.memWrite16 a v).iff1 = s.iff1 ∧
    (s.memWrite16 a v).iff2 = s.iff2 ∧ (s.memWrite16 a v).im = s.im ∧ (s.memWrite16 a v).halted = s.halted ∧
    (s.memWrite16 a v).initialised = s.initialised ∧ (s.memWrite16 a v).bus = s.bus ∧
    (s.memWrite16 a v).provider = s.provider ∧ (s.memWrite16 a v).controlWritten = s.controlWritten ∧
    (s.memWrite16 a v).params = s.params ∧ (s.memWrite16 a v).draws = s.draws := by
  simp [State.memWrite16]

@[simp] theorem State.ioRead_trace (s : State) (port : Word) :
    (s.ioRead port).2.trace = .ioRead port (s.ioRead port).1 :: s.trace := rfl

@[simp] theorem State.ioWrite_trace (s : State) (port : Word) (v : Byte) :
    (s.ioWrite port v).trace = .ioWrite port v :: s.trace := rfl

/-- A two-byte write keeps the canonical form. -/
theorem State.memWrite16_wf (s : State) (a v : Word) (h : Memory.wf s.mem = true) :
    Memory.wf (s.memWrite16 a v).mem = true := State.memWrite_wf _ _ _ (State.memWrite_wf _ _ _ h)

/-- A two-byte write leaves what every other address holds. -/
theorem State.read_memWrite16_other (s : State) {a b : Word} (v : Word) (h : b ≠ a) (h1 : b ≠ a + 1) :
    Memory.read (s.memWrite16 a v).mem b.toNat = Memory.read s.mem b.toNat := by
  rw [State.memWrite16, State.read_memWrite_other _ _ h1, State.read_memWrite_other _ _ h]

/-! ### The stack, the fetch, R -/

/-- What a push leaves of the fields it never writes, and SP. -/
@[simp] theorem State.push16_fields (s : State) (v : Word) :
    (s.push16 v).regs = s.regs ∧ (s.push16 v).alt = s.alt ∧ (s.push16 v).ix = s.ix ∧ (s.push16 v).iy = s.iy ∧
    (s.push16 v).sp = s.sp - 2 ∧ (s.push16 v).pc = s.pc ∧ (s.push16 v).i = s.i ∧ (s.push16 v).r = s.r ∧
    (s.push16 v).iff1 = s.iff1 ∧ (s.push16 v).iff2 = s.iff2 ∧ (s.push16 v).im = s.im ∧
    (s.push16 v).halted = s.halted ∧ (s.push16 v).initialised = s.initialised ∧ (s.push16 v).bus = s.bus ∧
    (s.push16 v).provider = s.provider ∧ (s.push16 v).controlWritten = s.controlWritten ∧
    (s.push16 v).params = s.params ∧ (s.push16 v).draws = s.draws := by
  refine ⟨?_, ?_, ?_, ?_, ?_, ?_, ?_, ?_, ?_, ?_, ?_, ?_, ?_, ?_, ?_, ?_, ?_, ?_⟩ <;> simp [State.push16]
  exact word_sub_two _

/-- What a pop leaves of the fields it never writes, and SP. -/
@[simp] theorem State.pop16_fields (s : State) :
    s.pop16.2.regs = s.regs ∧ s.pop16.2.alt = s.alt ∧ s.pop16.2.ix = s.ix ∧ s.pop16.2.iy = s.iy ∧
    s.pop16.2.sp = s.sp + 2 ∧ s.pop16.2.pc = s.pc ∧ s.pop16.2.i = s.i ∧ s.pop16.2.r = s.r ∧
    s.pop16.2.iff1 = s.iff1 ∧ s.pop16.2.iff2 = s.iff2 ∧ s.pop16.2.im = s.im ∧ s.pop16.2.halted = s.halted ∧
    s.pop16.2.initialised = s.initialised ∧ s.pop16.2.bus = s.bus ∧ s.pop16.2.provider = s.provider ∧
    s.pop16.2.controlWritten = s.controlWritten ∧ s.pop16.2.mem = s.mem ∧ s.pop16.2.params = s.params ∧
    s.pop16.2.draws = s.draws := by
  refine ⟨?_, ?_, ?_, ?_, ?_, ?_, ?_, ?_, ?_, ?_, ?_, ?_, ?_, ?_, ?_, ?_, ?_, ?_, ?_⟩ <;> simp [State.pop16]
  exact word_add_two _

/-- What a fetch leaves of the fields it never writes, and PC. -/
@[simp] theorem State.fetch8_fields (s : State) :
    s.fetch8.2.regs = s.regs ∧ s.fetch8.2.alt = s.alt ∧ s.fetch8.2.ix = s.ix ∧ s.fetch8.2.iy = s.iy ∧
    s.fetch8.2.sp = s.sp ∧ s.fetch8.2.pc = s.pc + 1 ∧ s.fetch8.2.i = s.i ∧ s.fetch8.2.r = s.r ∧
    s.fetch8.2.iff1 = s.iff1 ∧ s.fetch8.2.iff2 = s.iff2 ∧ s.fetch8.2.im = s.im ∧ s.fetch8.2.halted = s.halted ∧
    s.fetch8.2.initialised = s.initialised ∧ s.fetch8.2.bus = s.bus ∧ s.fetch8.2.provider = s.provider ∧
    s.fetch8.2.controlWritten = s.controlWritten ∧ s.fetch8.2.mem = s.mem ∧ s.fetch8.2.params = s.params ∧
    s.fetch8.2.draws = s.draws := by
  simp [State.fetch8]

/-- A push keeps the canonical form. -/
theorem State.push16_wf (s : State) (v : Word) (h : Memory.wf s.mem = true) : Memory.wf (s.push16 v).mem = true := by
  have h1 : Memory.wf ((s.setSp (s.sp - 1)).memWrite (s.sp - 1) (hiByte v)).mem = true := State.memWrite_wf _ _ _ h
  exact State.memWrite_wf _ _ _ h1

/-- A push leaves what every address but the two below SP holds. -/
theorem State.read_push16_other (s : State) {b : Word} (v : Word) (h1 : b ≠ s.sp - 1) (h2 : b ≠ s.sp - 2) :
    Memory.read (s.push16 v).mem b.toNat = Memory.read s.mem b.toNat := by
  have h3 : b ≠ s.sp - 1 - 1 := by rwa [word_sub_two]
  have e : ((s.setSp (s.sp - 1)).memWrite (s.sp - 1) (hiByte v)).sp = s.sp - 1 := by simp
  unfold State.push16
  simp only [e]
  rw [State.read_memWrite_other _ _ h3]
  exact State.read_memWrite_other (s.setSp (s.sp - 1)) _ h1

/-- The two accesses of a push, the high byte at SP-1 first. -/
theorem State.push16_trace (s : State) (v : Word) :
    (s.push16 v).trace = .memWrite (s.sp - 2) (loByte v) :: .memWrite (s.sp - 1) (hiByte v) :: s.trace := by
  simp only [State.push16, State.memWrite_trace, State.setSp_fields, State.memWrite_fields, word_sub_two]

/-- What the fetch of operand bytes leaves of the fields it never writes. -/
@[simp] theorem State.fetchBytes_fields (s : State) (n : Nat) :
    (State.fetchBytes n s).2.regs = s.regs ∧ (State.fetchBytes n s).2.alt = s.alt ∧
    (State.fetchBytes n s).2.ix = s.ix ∧ (State.fetchBytes n s).2.iy = s.iy ∧ (State.fetchBytes n s).2.sp = s.sp ∧
    (State.fetchBytes n s).2.i = s.i ∧ (State.fetchBytes n s).2.r = s.r ∧ (State.fetchBytes n s).2.iff1 = s.iff1 ∧
    (State.fetchBytes n s).2.iff2 = s.iff2 ∧ (State.fetchBytes n s).2.im = s.im ∧
    (State.fetchBytes n s).2.halted = s.halted ∧ (State.fetchBytes n s).2.initialised = s.initialised ∧
    (State.fetchBytes n s).2.bus = s.bus ∧ (State.fetchBytes n s).2.provider = s.provider ∧
    (State.fetchBytes n s).2.controlWritten = s.controlWritten ∧ (State.fetchBytes n s).2.mem = s.mem ∧
    (State.fetchBytes n s).2.params = s.params ∧ (State.fetchBytes n s).2.draws = s.draws := by
  induction n generalizing s with
  | zero => simp [State.fetchBytes]
  | succ n ih => simp [State.fetchBytes, ih]

/-- What the fetch of an instruction leaves of the fields it never writes. -/
@[simp] theorem State.fetchInstr_fields (s : State) :
    s.fetchInstr.2.regs = s.regs ∧ s.fetchInstr.2.alt = s.alt ∧ s.fetchInstr.2.ix = s.ix ∧
    s.fetchInstr.2.iy = s.iy ∧ s.fetchInstr.2.sp = s.sp ∧ s.fetchInstr.2.i = s.i ∧ s.fetchInstr.2.iff1 = s.iff1 ∧
    s.fetchInstr.2.iff2 = s.iff2 ∧ s.fetchInstr.2.im = s.im ∧ s.fetchInstr.2.halted = s.halted ∧
    s.fetchInstr.2.initialised = s.initialised ∧ s.fetchInstr.2.bus = s.bus ∧
    s.fetchInstr.2.provider = s.provider ∧ s.fetchInstr.2.controlWritten = s.controlWritten ∧
    s.fetchInstr.2.mem = s.mem ∧ s.fetchInstr.2.params = s.params ∧ s.fetchInstr.2.draws = s.draws := by
  unfold State.fetchInstr
  simp only []
  split
  · split <;> simp
  · simp

/-- What the read of `r8[k]` leaves of the fields it never writes. -/
@[simp] theorem State.readOpnd_fields (s : State) (o : Opnd8) :
    (s.readOpnd o).2.regs = s.regs ∧ (s.readOpnd o).2.alt = s.alt ∧ (s.readOpnd o).2.ix = s.ix ∧
    (s.readOpnd o).2.iy = s.iy ∧ (s.readOpnd o).2.sp = s.sp ∧ (s.readOpnd o).2.pc = s.pc ∧
    (s.readOpnd o).2.i = s.i ∧ (s.readOpnd o).2.r = s.r ∧ (s.readOpnd o).2.iff1 = s.iff1 ∧
    (s.readOpnd o).2.iff2 = s.iff2 ∧ (s.readOpnd o).2.im = s.im ∧ (s.readOpnd o).2.halted = s.halted ∧
    (s.readOpnd o).2.initialised = s.initialised ∧ (s.readOpnd o).2.bus = s.bus ∧
    (s.readOpnd o).2.provider = s.provider ∧ (s.readOpnd o).2.controlWritten = s.controlWritten ∧
    (s.readOpnd o).2.mem = s.mem ∧ (s.readOpnd o).2.params = s.params ∧ (s.readOpnd o).2.draws = s.draws := by
  cases o <;> simp [State.readOpnd]

/-- What the write of `r8[k]` leaves of the fields it never writes. -/
@[simp] theorem State.writeOpnd_fields (s : State) (o : Opnd8) (v : Byte) :
    (s.writeOpnd o v).alt = s.alt ∧ (s.writeOpnd o v).ix = s.ix ∧ (s.writeOpnd o v).iy = s.iy ∧
    (s.writeOpnd o v).sp = s.sp ∧ (s.writeOpnd o v).pc = s.pc ∧ (s.writeOpnd o v).i = s.i ∧
    (s.writeOpnd o v).r = s.r ∧ (s.writeOpnd o v).iff1 = s.iff1 ∧ (s.writeOpnd o v).iff2 = s.iff2 ∧
    (s.writeOpnd o v).im = s.im ∧ (s.writeOpnd o v).halted = s.halted ∧
    (s.writeOpnd o v).initialised = s.initialised ∧ (s.writeOpnd o v).bus = s.bus ∧
    (s.writeOpnd o v).provider = s.provider ∧ (s.writeOpnd o v).controlWritten = s.controlWritten ∧
    (s.writeOpnd o v).params = s.params ∧ (s.writeOpnd o v).draws = s.draws := by
  cases o <;> simp [State.writeOpnd]

/-- What the repeat of a block instruction leaves. -/
@[simp] theorem State.repeatIf_fields (s : State) (again : Bool) :
    (s.repeatIf again).regs = s.regs ∧ (s.repeatIf again).alt = s.alt ∧ (s.repeatIf again).ix = s.ix ∧
    (s.repeatIf again).iy = s.iy ∧ (s.repeatIf again).sp = s.sp ∧
    (s.repeatIf again).pc = (bif again then s.pc - 2 else s.pc) ∧ (s.repeatIf again).i = s.i ∧
    (s.repeatIf again).r = s.r ∧ (s.repeatIf again).iff1 = s.iff1 ∧ (s.repeatIf again).iff2 = s.iff2 ∧
    (s.repeatIf again).im = s.im ∧ (s.repeatIf again).halted = s.halted ∧
    (s.repeatIf again).nmiLatch = s.nmiLatch ∧ (s.repeatIf again).intLine = s.intLine ∧
    (s.repeatIf again).initialised = s.initialised ∧ (s.repeatIf again).bus = s.bus ∧
    (s.repeatIf again).provider = s.provider ∧ (s.repeatIf again).controlWritten = s.controlWritten ∧
    (s.repeatIf again).violation = s.violation ∧ (s.repeatIf again).mem = s.mem ∧
    (s.repeatIf again).params = s.params ∧ (s.repeatIf again).answers = s.answers ∧
    (s.repeatIf again).trace = s.trace ∧ (s.repeatIf again).draws = s.draws := by
  cases again <;> simp [State.repeatIf]

/-- A write of `r8[k]` keeps the canonical form. -/
theorem State.writeOpnd_wf (s : State) (o : Opnd8) (v : Byte) (h : Memory.wf s.mem = true) :
    Memory.wf (s.writeOpnd o v).mem = true := by
  cases o
  · exact h
  · exact State.memWrite_wf _ _ _ h

@[simp] theorem Bank.get_set_same (g : Bank) (r : Reg8) (v : Byte) : (g.set r v).get r = v := by cases r <;> rfl

theorem Bank.get_set_other (g : Bank) {r q : Reg8} (v : Byte) (h : q ≠ r) : (g.set r v).get q = g.get q := by
  cases r <;> cases q <;> first | rfl | exact absurd rfl h

@[simp] theorem Bank.set_f (g : Bank) (r : Reg8) (v : Byte) : (g.set r v).f = g.f := by cases r <;> rfl

@[simp] theorem State.pair_setPair (s : State) (p : Rp) (v : Word) : (s.setPair p v).pair p = v := by
  cases p <;> simp [State.setPair, State.pair, State.bc, State.de, State.hl]

@[simp] theorem State.pair2_setPair2 (s : State) (p : Rp2) (v : Word) : (s.setPair2 p v).pair2 p = v := by
  cases p <;> simp [State.setPair2, State.pair2, State.bc, State.de, State.hl]

@[simp] theorem State.idx_setIdx (s : State) (i : Idx) (v : Word) : (s.setIdx i v).idx i = v := by cases i <;> rfl

/-- Counting keeps bit 7 of R and advances the others modulo 128. -/
theorem advanceR_spec (r : Byte) (n : Nat) :
    (advanceR r n).toNat % 128 = (r.toNat + n) % 128 ∧ (advanceR r n).getLsbD 7 = r.getLsbD 7 := by
  have top : ∀ r : Byte, (r &&& 0x80) = bif r.getLsbD 7 then 0x80 else 0x00 := by decide +kernel
  have key : ∀ b : Bool, ∀ w : Fin 128,
      ((bif b then 0x80 else 0x00 : Byte) ||| BitVec.ofNat 8 w.val).toNat % 128 = w.val ∧
      ((bif b then 0x80 else 0x00 : Byte) ||| BitVec.ofNat 8 w.val).getLsbD 7 = b := by decide +kernel
  unfold advanceR
  rw [top]
  exact key (r.getLsbD 7) ⟨(r.toNat + n) % 128, Nat.mod_lt _ (by decide)⟩

/-! ### Writing F -/

/-- The bits no mask names are the flag function's. -/
theorem Flags.mix_none (free f : Flags) : Flags.mix Flags.none free f = f := rfl

/-- What an instruction with only Y and X undocumented makes of F: every other bit is the flag function's, and Y and X
are too under Silicon. -/
theorem State.putXY_flags (s : State) (f : Flags) :
    (s.putXY f).regs.f.s = f.s ∧ (s.putXY f).regs.f.z = f.z ∧ (s.putXY f).regs.f.h = f.h ∧
    (s.putXY f).regs.f.pv = f.pv ∧ (s.putXY f).regs.f.n = f.n ∧ (s.putXY f).regs.f.c = f.c ∧
    (s.params.undocFlags = .silicon → (s.putXY f).regs.f.y = f.y ∧ (s.putXY f).regs.f.x = f.x) := by
  unfold State.putXY State.putFlags State.drawMask
  cases s.params.undocFlags <;> simp [Flags.mix, Flags.union, Flags.maskXY, Flags.none]

/-- Under Silicon, an instruction that always draws nothing writes the flag function's F. -/
theorem State.putFlags_silicon (s : State) (undefined f : Flags) (h : s.params.undocFlags = .silicon) :
    (s.putFlags Flags.none undefined f).regs.f = f := by
  simp [State.drawMask, h, Flags.mix, Flags.none]

/-! ### Taking an interrupt, and the return from one -/

/-- What the prologue of an acceptance leaves: a halted core steps past its HALT byte. -/
@[simp] theorem State.acceptPrologue_fields (s : State) :
    s.acceptPrologue.regs = s.regs ∧ s.acceptPrologue.alt = s.alt ∧ s.acceptPrologue.ix = s.ix ∧
    s.acceptPrologue.iy = s.iy ∧ s.acceptPrologue.sp = s.sp ∧
    s.acceptPrologue.pc = (bif s.halted then s.pc + 1 else s.pc) ∧ s.acceptPrologue.i = s.i ∧
    s.acceptPrologue.iff1 = s.iff1 ∧ s.acceptPrologue.iff2 = s.iff2 ∧ s.acceptPrologue.im = s.im ∧
    s.acceptPrologue.halted = false ∧ s.acceptPrologue.nmiLatch = s.nmiLatch ∧
    s.acceptPrologue.intLine = s.intLine ∧ s.acceptPrologue.initialised = s.initialised ∧
    s.acceptPrologue.bus = s.bus ∧ s.acceptPrologue.provider = s.provider ∧
    s.acceptPrologue.controlWritten = s.controlWritten ∧ s.acceptPrologue.violation = s.violation ∧
    s.acceptPrologue.mem = s.mem ∧ s.acceptPrologue.params = s.params ∧ s.acceptPrologue.answers = s.answers ∧
    s.acceptPrologue.trace = s.trace ∧ s.acceptPrologue.draws = s.draws := by
  unfold State.acceptPrologue
  cases h : s.halted <;> simp [h]

/-- What every acceptance leaves of the fields it never writes, and PC, SP and the enable flags. -/
@[simp] theorem State.takeInterrupt_fields (s : State) (target : Word) (iff2 : Bool) :
    (s.takeInterrupt target iff2).regs = s.regs ∧ (s.takeInterrupt target iff2).alt = s.alt ∧
    (s.takeInterrupt target iff2).ix = s.ix ∧ (s.takeInterrupt target iff2).iy = s.iy ∧
    (s.takeInterrupt target iff2).sp = s.sp - 2 ∧ (s.takeInterrupt target iff2).pc = target ∧
    (s.takeInterrupt target iff2).i = s.i ∧ (s.takeInterrupt target iff2).iff1 = false ∧
    (s.takeInterrupt target iff2).iff2 = iff2 ∧ (s.takeInterrupt target iff2).im = s.im ∧
    (s.takeInterrupt target iff2).halted = false ∧ (s.takeInterrupt target iff2).initialised = s.initialised ∧
    (s.takeInterrupt target iff2).bus = s.bus ∧ (s.takeInterrupt target iff2).provider = s.provider ∧
    (s.takeInterrupt target iff2).controlWritten = s.controlWritten ∧
    (s.takeInterrupt target iff2).params = s.params ∧ (s.takeInterrupt target iff2).draws = s.draws := by
  simp [State.takeInterrupt]

/-- What a return from an interrupt leaves of the fields it never writes, and PC, SP and IFF1. -/
@[simp] theorem State.returnFromInterrupt_fields (s : State) :
    s.returnFromInterrupt.regs = s.regs ∧ s.returnFromInterrupt.alt = s.alt ∧ s.returnFromInterrupt.ix = s.ix ∧
    s.returnFromInterrupt.iy = s.iy ∧ s.returnFromInterrupt.sp = s.sp + 2 ∧ s.returnFromInterrupt.pc = s.pop16.1 ∧
    s.returnFromInterrupt.i = s.i ∧ s.returnFromInterrupt.r = s.r ∧ s.returnFromInterrupt.iff1 = s.iff2 ∧
    s.returnFromInterrupt.iff2 = s.iff2 ∧ s.returnFromInterrupt.im = s.im ∧
    s.returnFromInterrupt.halted = s.halted ∧ s.returnFromInterrupt.initialised = s.initialised ∧
    s.returnFromInterrupt.bus = s.bus ∧ s.returnFromInterrupt.provider = s.provider ∧
    s.returnFromInterrupt.controlWritten = s.controlWritten ∧ s.returnFromInterrupt.mem = s.mem ∧
    s.returnFromInterrupt.params = s.params ∧ s.returnFromInterrupt.draws = s.draws := by
  simp [State.returnFromInterrupt]

/-- An acceptance keeps the canonical form. -/
theorem State.takeInterrupt_wf (s : State) (target : Word) (iff2 : Bool) (h : Memory.wf s.mem = true) :
    Memory.wf (s.takeInterrupt target iff2).mem = true :=
  State.push16_wf _ _ (by simpa using h)

/-- The poll keeps the canonical form. -/
theorem State.poll_wf (s : State) (h : Memory.wf s.mem = true) : Memory.wf s.poll.1.mem = true := by
  unfold State.poll
  split
  · exact State.takeInterrupt_wf s 0x0066 s.iff1 h
  · split
    · split
      · unfold State.acceptMode0
        split
        · simp only []
          split
          · split
            · exact State.takeInterrupt_wf _ _ _ (by simpa using h)
            · simpa using h
          · simpa using h
        · exact h
      · unfold State.acceptMode1
        simp only []
        split
        · simpa using State.takeInterrupt_wf s _ _ h
        · exact State.takeInterrupt_wf s _ _ h
      · unfold State.acceptMode2
        split
        · simp only []
          split
          · exact State.takeInterrupt_wf _ _ _ (by simpa using h)
          · simpa using h
        · exact h
    · exact h

/-! ### One iteration of the run loop -/

/-- What follows a point of a step that goes on: no forbidden call has been made by then. -/
theorem State.unlessViolated_next {α : Type} {s : State} {later : Host.Outcome α Fault Refusal} {x : α}
    (h : s.unlessViolated later = .next x) : s.violation = none ∧ later = .next x := by
  unfold State.unlessViolated at h
  split at h
  · exact ⟨‹_›, h⟩
  · cases h

/-- Everything an iteration that answers a state can have been: an acceptance, an idle turn, or one instruction. -/
theorem iterate_next {s t : State} {turn : Turn} (h : iterate s = .next (t, turn)) :
    s.initialised = true ∧ s.controlWritten = true ∧ t.violation = none ∧
    ((turn = .accepted ∧ s.nextDraw.poll = (t, true)) ∨
      (turn = .idle ∧ s.nextDraw.poll = (t, false) ∧ t.halted = true) ∨
      (turn = .executed ∧ ∃ u, s.nextDraw.poll = (u, false) ∧ u.halted = false ∧ u.violation = none ∧
        u.fetchInstr.2.violation = none ∧ exec u.fetchInstr.1 u.fetchInstr.2 = .next t)) := by
  unfold iterate at h
  split at h
  case isFalse => cases h
  rename_i hi
  split at h
  case isFalse => cases h
  rename_i hc
  obtain ⟨hv, h⟩ := State.unlessViolated_next h
  refine ⟨hi, hc, ?_⟩
  generalize s.nextDraw.poll = polled at *
  obtain ⟨u, accepted⟩ := polled
  cases accepted
  · cases hh : u.halted
    · simp only [Bool.false_eq_true, if_false, hh] at h
      obtain ⟨hf, h⟩ := State.unlessViolated_next h
      split at h
      · obtain ⟨ht, h⟩ := State.unlessViolated_next h
        cases h
        exact ⟨ht, .inr (.inr ⟨rfl, u, rfl, hh, hv, hf, ‹_›⟩)⟩
      · cases h
      · cases h
    · simp only [Bool.false_eq_true, if_false, hh, if_true] at h
      cases h
      exact ⟨hv, .inr (.inl ⟨rfl, rfl, hh⟩)⟩
  · simp only [if_true] at h
    cases h
    exact ⟨hv, .inl ⟨rfl, rfl⟩⟩

end Sys2Proof.Machine
end

