-- ==== Sys2Proof/Laws/Access.lean ====
section
/-!
SUPPORT. What each access does, in the terms of Safety.lean: a byte or a word loaded, stored, pushed or popped.
-/

namespace Sys2Proof.Machine

@[simp] theorem State.reg_setReg (s : State) (r : Reg8) (v : Byte) : (s.setReg r v).reg r = v := by simp [State.reg]

@[simp] theorem State.bc_setBc (s : State) (v : Word) : (s.setBc v).bc = v := by simp [State.bc]

@[simp] theorem State.de_setDe (s : State) (v : Word) : (s.setDe v).de = v := by simp [State.de]

@[simp] theorem State.hl_setHl (s : State) (v : Word) : (s.setHl v).hl = v := by simp [State.hl]

theorem word_ne_succ (a : Word) : a ≠ a + 1 := by bv_omega

theorem word_pred_ne (a : Word) : a - 1 ≠ a - 2 := by bv_omega

/-- Whether an address is plain depends on the Bus alone. -/
theorem State.plainAt_congr {s t : State} (h : t.bus = s.bus) (a : Word) : t.plainAt a ↔ s.plainAt a := by
  simp [State.plainAt, State.isDevice_congr h]

/-- The form of an access is settled by the Bus and by what memory held before. -/
theorem Loaded.congr {a : Word} {v : Byte} {s t t' : State} (h : Loaded a v s t) (e : t'.trace = t.trace) :
    Loaded a v s t' := ⟨e.trans h.1, h.2⟩

theorem Loaded16.congr {a v : Word} {s t t' : State} (h : Loaded16 a v s t) (e : t'.trace = t.trace) :
    Loaded16 a v s t' := ⟨e.trans h.1, h.2⟩

theorem Popped.congr {v : Word} {s t t' : State} (h : Popped v s t) (e : t'.trace = t.trace) (e' : t'.sp = t.sp) :
    Popped v s t' := ⟨e'.trans h.1, h.2.congr e⟩

theorem State.memRead_loaded (s : State) (a : Word) : Loaded a (s.memRead a).1 s (s.memRead a).2 := by
  refine ⟨by simp, fun h => ?_⟩
  rw [State.memRead_plain s h]; rfl

theorem State.memWrite_stored (s : State) (a : Word) (v : Byte) : Stored a v s (s.memWrite a v) := by
  refine ⟨by simp, fun h => ?_⟩
  show Memory.read _ _ = _
  rw [State.read_memWrite]; simp [show s.isDevice a = false from h]

theorem State.memRead16_loaded (s : State) (a : Word) : Loaded16 a (s.memRead16 a).1 s (s.memRead16 a).2 := by
  refine ⟨by simp [State.memRead16], fun h => ?_, fun h => ?_⟩
  · simp only [State.memRead16, loByte_joinBytes]; exact (State.memRead_loaded s a).2 h
  · simp only [State.memRead16, hiByte_joinBytes]
    have := (State.memRead_loaded (s.memRead a).2 (a + 1)).2 (by simpa [State.plainAt] using h)
    rw [this]; simp [State.byteAt]

theorem State.memWrite16_stored (s : State) (a v : Word) : Stored16 a v s (s.memWrite16 a v) := by
  refine ⟨by simp [State.memWrite16], fun h => ?_, fun h => ?_⟩
  · show Memory.read _ _ = _
    unfold State.memWrite16
    rw [State.read_memWrite_other _ _ (word_ne_succ a)]
    exact (State.memWrite_stored s a _).2 h
  · exact (State.memWrite_stored (s.memWrite a _) (a + 1) _).2 (by simpa [State.plainAt] using h)

theorem State.push16_pushed (s : State) (v : Word) : Pushed v s (s.push16 v) := by
  have e : ((s.setSp (s.sp - 1)).memWrite (s.sp - 1) (hiByte v)).sp = s.sp - 1 := by simp
  refine ⟨by simp, State.push16_trace s v, fun h => ?_, fun h => ?_⟩
  · show Memory.read _ _ = _
    unfold State.push16
    simp only [e, word_sub_two]
    rw [State.read_memWrite_other _ _ (word_pred_ne _)]
    exact (State.memWrite_stored (s.setSp (s.sp - 1)) _ _).2 h
  · unfold State.push16
    simp only [e, word_sub_two]
    exact (State.memWrite_stored _ (s.sp - 2) _).2 (by simpa [State.plainAt] using h)

theorem State.pop16_popped (s : State) : Popped s.pop16.1 s s.pop16.2 := by
  refine ⟨by simp, ?_, fun h => ?_, fun h => ?_⟩
  · simp [State.pop16]
  · simp only [State.pop16, loByte_joinBytes]; exact (State.memRead_loaded s _).2 h
  · have := (State.memRead_loaded ((s.memRead s.sp).2.setSp ((s.memRead s.sp).2.sp + 1)) (s.sp + 1)).2
      (by simpa [State.plainAt] using h)
    simp only [State.pop16, State.memRead_fields, State.setSp_fields, hiByte_joinBytes] at this ⊢
    rw [this]; simp [State.byteAt]

/-- A gated encoding under Silicon takes its effect. -/
theorem State.undocumented_silicon {s : State} (i : Instr) (t : State) (h : s.params.undocOps = .silicon) :
    s.undocumented i t = .next t := by simp [State.undocumented, h]

/-! ### Accesses no device answers, and the faults a callback can make -/

/-- A read of plain memory asks the environment nothing. -/
theorem State.memRead_quiet (s : State) {a : Word} (h : s.plainAt a) :
    (s.memRead a).2 = s.logged (.memRead a (s.byteAt a)) := by
  rw [State.memRead_plain s h]; rfl

/-- A write of plain memory asks the environment nothing. -/
theorem State.memWrite_quiet (s : State) {a : Word} (v : Byte) (h : s.plainAt a) :
    (s.memWrite a v).violation = s.violation ∧ (s.memWrite a v).answers = s.answers ∧
    (s.memWrite a v).nmiLatch = s.nmiLatch ∧ (s.memWrite a v).intLine = s.intLine := by
  rw [State.memWrite_plain s v h]; exact ⟨rfl, rfl, rfl, rfl⟩

/-- With no forbidden call made, a step goes on. -/
@[simp] theorem State.unlessViolated_none {α : Type} {s : State} (later : Host.Outcome α Fault Refusal)
    (h : s.violation = none) : s.unlessViolated later = later := by simp [State.unlessViolated, h]

/-- A forbidden call is the fault the step ends in. -/
@[simp] theorem State.unlessViolated_some {α : Type} {s : State} {call : Config.HostCallName}
    (later : Host.Outcome α Fault Refusal) (h : s.violation = some call) :
    s.unlessViolated later = .fault (.preconditionViolation call) := by simp [State.unlessViolated, h]

/-- The first forbidden call made stays the one a step ends in. -/
theorem State.answered_violation_some {s : State} {call : Config.HostCallName} (answer : Config.Answer)
    (event : Config.BusEvent) (h : s.violation = some call) : (s.answered answer event).violation = some call := by
  simp [h]

end Sys2Proof.Machine
end

