-- ==== Sys2Proof/Laws/PerInstr.lean ====
section
/-!
SUPPORT. One lemma per instruction: how many bytes its encoding has (30_encoding.md rules R54, R55).
-/

namespace Sys2Proof.Laws.Encoding

/-- The encoding has one to four bytes, and two or more if it is undocumented. -/
def check (i : Instr) : Bool :=
  decide (1 ≤ i.encode.length) && decide (i.encode.length ≤ 4) && (!i.undocumented || decide (2 ≤ i.encode.length))

/-- An instruction has one to four bytes, and an undocumented encoding has a map-selecting byte before its opcode
(R54, R67). -/
def Statement (i : Instr) : Prop := check i = true

theorem nop : Statement .nop := rfl

theorem exAfAf : Statement .exAfAf := rfl

theorem djnz (e : Byte) : Statement (.djnz e) := rfl

theorem jr (e : Byte) : Statement (.jr e) := rfl

theorem jrCc (cc : JrCond) (e : Byte) : Statement (.jrCc cc e) := rfl

theorem ldRpNn (p : Rp) (nn : Word) : Statement (.ldRpNn p nn) := rfl

theorem addHlRp (p : Rp) : Statement (.addHlRp p) := rfl

theorem ldRpMemA (p : BcDe) : Statement (.ldRpMemA p) := rfl

theorem ldNnMemHl (nn : Word) : Statement (.ldNnMemHl nn) := rfl

theorem ldNnMemA (nn : Word) : Statement (.ldNnMemA nn) := rfl

theorem ldARpMem (p : BcDe) : Statement (.ldARpMem p) := rfl

theorem ldHlNnMem (nn : Word) : Statement (.ldHlNnMem nn) := rfl

theorem ldANnMem (nn : Word) : Statement (.ldANnMem nn) := rfl

theorem incRp (p : Rp) : Statement (.incRp p) := rfl

theorem decRp (p : Rp) : Statement (.decRp p) := rfl

theorem incR8 (o : Opnd8) : Statement (.incR8 o) := rfl

theorem decR8 (o : Opnd8) : Statement (.decR8 o) := rfl

theorem ldRN (r : Reg8) (n : Byte) : Statement (.ldRN r n) := rfl

theorem ldHlMemN (n : Byte) : Statement (.ldHlMemN n) := rfl

theorem rlca : Statement .rlca := rfl

theorem rrca : Statement .rrca := rfl

theorem rla : Statement .rla := rfl

theorem rra : Statement .rra := rfl

theorem daa : Statement .daa := rfl

theorem cpl : Statement .cpl := rfl

theorem scf : Statement .scf := rfl

theorem ccf : Statement .ccf := rfl

theorem ldRR (y : Reg8) (z : Reg8) : Statement (.ldRR y z) := rfl

theorem ldRHlMem (y : Reg8) : Statement (.ldRHlMem y) := rfl

theorem ldHlMemR (z : Reg8) : Statement (.ldHlMemR z) := rfl

theorem halt : Statement .halt := rfl

theorem addAR8 (o : Opnd8) : Statement (.addAR8 o) := rfl

theorem adcAR8 (o : Opnd8) : Statement (.adcAR8 o) := rfl

theorem subR8 (o : Opnd8) : Statement (.subR8 o) := rfl

theorem sbcAR8 (o : Opnd8) : Statement (.sbcAR8 o) := rfl

theorem andR8 (o : Opnd8) : Statement (.andR8 o) := rfl

theorem xorR8 (o : Opnd8) : Statement (.xorR8 o) := rfl

theorem orR8 (o : Opnd8) : Statement (.orR8 o) := rfl

theorem cpR8 (o : Opnd8) : Statement (.cpR8 o) := rfl

theorem retCc (cc : Cond) : Statement (.retCc cc) := rfl

theorem popRp2 (p : Rp2) : Statement (.popRp2 p) := rfl

theorem ret : Statement .ret := rfl

theorem exx : Statement .exx := rfl

theorem jpHl : Statement .jpHl := rfl

theorem ldSpHl : Statement .ldSpHl := rfl

theorem jpCcNn (cc : Cond) (nn : Word) : Statement (.jpCcNn cc nn) := rfl

theorem jpNn (nn : Word) : Statement (.jpNn nn) := rfl

theorem outNA (n : Byte) : Statement (.outNA n) := rfl

theorem inAN (n : Byte) : Statement (.inAN n) := rfl

theorem exSpHl : Statement .exSpHl := rfl

theorem exDeHl : Statement .exDeHl := rfl

theorem di : Statement .di := rfl

theorem ei : Statement .ei := rfl

theorem callCcNn (cc : Cond) (nn : Word) : Statement (.callCcNn cc nn) := rfl

theorem pushRp2 (p : Rp2) : Statement (.pushRp2 p) := rfl

theorem callNn (nn : Word) : Statement (.callNn nn) := rfl

theorem addAN (n : Byte) : Statement (.addAN n) := rfl

theorem adcAN (n : Byte) : Statement (.adcAN n) := rfl

theorem subN (n : Byte) : Statement (.subN n) := rfl

theorem sbcAN (n : Byte) : Statement (.sbcAN n) := rfl

theorem andN (n : Byte) : Statement (.andN n) := rfl

theorem xorN (n : Byte) : Statement (.xorN n) := rfl

theorem orN (n : Byte) : Statement (.orN n) := rfl

theorem cpN (n : Byte) : Statement (.cpN n) := rfl

theorem rst (y : Fin 8) : Statement (.rst y) := rfl

theorem rlcR8 (o : Opnd8) : Statement (.rlcR8 o) := rfl

theorem rrcR8 (o : Opnd8) : Statement (.rrcR8 o) := rfl

theorem rlR8 (o : Opnd8) : Statement (.rlR8 o) := rfl

theorem rrR8 (o : Opnd8) : Statement (.rrR8 o) := rfl

theorem slaR8 (o : Opnd8) : Statement (.slaR8 o) := rfl

theorem sraR8 (o : Opnd8) : Statement (.sraR8 o) := rfl

theorem sllR8 (o : Opnd8) : Statement (.sllR8 o) := rfl

theorem srlR8 (o : Opnd8) : Statement (.srlR8 o) := rfl

theorem bitR8 (b : Fin 8) (o : Opnd8) : Statement (.bitR8 b o) := rfl

theorem resR8 (b : Fin 8) (o : Opnd8) : Statement (.resR8 b o) := rfl

theorem setR8 (b : Fin 8) (o : Opnd8) : Statement (.setR8 b o) := rfl

theorem inRC (y : Reg8) : Statement (.inRC y) := rfl

theorem inFC : Statement .inFC := rfl

theorem outCR (y : Reg8) : Statement (.outCR y) := rfl

theorem outC0 : Statement .outC0 := rfl

theorem sbcHlRp (p : Rp) : Statement (.sbcHlRp p) := rfl

theorem adcHlRp (p : Rp) : Statement (.adcHlRp p) := rfl

theorem ldNnMemRp (p : Rp) (nn : Word) : Statement (.ldNnMemRp p nn) := rfl

theorem ldNnMemHlEd (nn : Word) : Statement (.ldNnMemHlEd nn) := rfl

theorem ldRpNnMem (p : Rp) (nn : Word) : Statement (.ldRpNnMem p nn) := rfl

theorem ldHlNnMemEd (nn : Word) : Statement (.ldHlNnMemEd nn) := rfl

theorem neg : Statement .neg := rfl

theorem negDup (y : Fin 8) : Statement (.negDup y) := rfl

theorem retn : Statement .retn := rfl

theorem reti : Statement .reti := rfl

theorem retnDup (y : Fin 8) : Statement (.retnDup y) := rfl

theorem im0 : Statement .im0 := rfl

theorem im1 : Statement .im1 := rfl

theorem im2 : Statement .im2 := rfl

theorem im0Dup : Statement .im0Dup := rfl

theorem im1Dup : Statement .im1Dup := rfl

theorem im2Dup : Statement .im2Dup := rfl

theorem im01 (q : Bool) : Statement (.im01 q) := rfl

theorem ldIA : Statement .ldIA := rfl

theorem ldRA : Statement .ldRA := rfl

theorem ldAI : Statement .ldAI := rfl

theorem ldAR : Statement .ldAR := rfl

theorem rrd : Statement .rrd := rfl

theorem rld : Statement .rld := rfl

theorem ldi : Statement .ldi := rfl

theorem cpi : Statement .cpi := rfl

theorem ini : Statement .ini := rfl

theorem outi : Statement .outi := rfl

theorem ldd : Statement .ldd := rfl

theorem cpd : Statement .cpd := rfl

theorem ind : Statement .ind := rfl

theorem outd : Statement .outd := rfl

theorem ldir : Statement .ldir := rfl

theorem cpir : Statement .cpir := rfl

theorem inir : Statement .inir := rfl

theorem otir : Statement .otir := rfl

theorem lddr : Statement .lddr := rfl

theorem cpdr : Statement .cpdr := rfl

theorem indr : Statement .indr := rfl

theorem otdr : Statement .otdr := rfl

theorem edUndefined (op : Byte) : Statement (.edUndefined op) := rfl

theorem addIdxRp (i : Idx) (p : RpIdx) : Statement (.addIdxRp i p) := rfl

theorem ldIdxNn (i : Idx) (nn : Word) : Statement (.ldIdxNn i nn) := rfl

theorem ldNnMemIdx (i : Idx) (nn : Word) : Statement (.ldNnMemIdx i nn) := rfl

theorem ldIdxNnMem (i : Idx) (nn : Word) : Statement (.ldIdxNnMem i nn) := rfl

theorem incIdx (i : Idx) : Statement (.incIdx i) := rfl

theorem decIdx (i : Idx) : Statement (.decIdx i) := rfl

theorem incHalf (i : Idx) (h : Half) : Statement (.incHalf i h) := rfl

theorem decHalf (i : Idx) (h : Half) : Statement (.decHalf i h) := rfl

theorem ldHalfN (i : Idx) (h : Half) (n : Byte) : Statement (.ldHalfN i h n) := rfl

theorem incIdxMem (i : Idx) (d : Byte) : Statement (.incIdxMem i d) := rfl

theorem decIdxMem (i : Idx) (d : Byte) : Statement (.decIdxMem i d) := rfl

theorem ldIdxMemN (i : Idx) (d : Byte) (n : Byte) : Statement (.ldIdxMemN i d n) := rfl

theorem ldRIdxMem (y : Reg8) (i : Idx) (d : Byte) : Statement (.ldRIdxMem y i d) := rfl

theorem ldIdxMemR (i : Idx) (d : Byte) (z : Reg8) : Statement (.ldIdxMemR i d z) := rfl

theorem ldXX (i : Idx) (y : RegX) (z : RegX) : Statement (.ldXX i y z) := rfl

theorem addAIdxMem (i : Idx) (d : Byte) : Statement (.addAIdxMem i d) := rfl

theorem addAHalf (i : Idx) (h : Half) : Statement (.addAHalf i h) := rfl

theorem adcAIdxMem (i : Idx) (d : Byte) : Statement (.adcAIdxMem i d) := rfl

theorem adcAHalf (i : Idx) (h : Half) : Statement (.adcAHalf i h) := rfl

theorem subIdxMem (i : Idx) (d : Byte) : Statement (.subIdxMem i d) := rfl

theorem subHalf (i : Idx) (h : Half) : Statement (.subHalf i h) := rfl

theorem sbcAIdxMem (i : Idx) (d : Byte) : Statement (.sbcAIdxMem i d) := rfl

theorem sbcAHalf (i : Idx) (h : Half) : Statement (.sbcAHalf i h) := rfl

theorem andIdxMem (i : Idx) (d : Byte) : Statement (.andIdxMem i d) := rfl

theorem andHalf (i : Idx) (h : Half) : Statement (.andHalf i h) := rfl

theorem xorIdxMem (i : Idx) (d : Byte) : Statement (.xorIdxMem i d) := rfl

theorem xorHalf (i : Idx) (h : Half) : Statement (.xorHalf i h) := rfl

theorem orIdxMem (i : Idx) (d : Byte) : Statement (.orIdxMem i d) := rfl

theorem orHalf (i : Idx) (h : Half) : Statement (.orHalf i h) := rfl

theorem cpIdxMem (i : Idx) (d : Byte) : Statement (.cpIdxMem i d) := rfl

theorem cpHalf (i : Idx) (h : Half) : Statement (.cpHalf i h) := rfl

theorem popIdx (i : Idx) : Statement (.popIdx i) := rfl

theorem exSpIdx (i : Idx) : Statement (.exSpIdx i) := rfl

theorem pushIdx (i : Idx) : Statement (.pushIdx i) := rfl

theorem jpIdx (i : Idx) : Statement (.jpIdx i) := rfl

theorem ldSpIdx (i : Idx) : Statement (.ldSpIdx i) := rfl

theorem ignoredPrefix (i : Idx) : Statement (.ignoredPrefix i) := rfl

theorem rlcIdxMem (i : Idx) (d : Byte) : Statement (.rlcIdxMem i d) := rfl

theorem rlcIdxCopy (i : Idx) (d : Byte) (z : Reg8) : Statement (.rlcIdxCopy i d z) := rfl

theorem rrcIdxMem (i : Idx) (d : Byte) : Statement (.rrcIdxMem i d) := rfl

theorem rrcIdxCopy (i : Idx) (d : Byte) (z : Reg8) : Statement (.rrcIdxCopy i d z) := rfl

theorem rlIdxMem (i : Idx) (d : Byte) : Statement (.rlIdxMem i d) := rfl

theorem rlIdxCopy (i : Idx) (d : Byte) (z : Reg8) : Statement (.rlIdxCopy i d z) := rfl

theorem rrIdxMem (i : Idx) (d : Byte) : Statement (.rrIdxMem i d) := rfl

theorem rrIdxCopy (i : Idx) (d : Byte) (z : Reg8) : Statement (.rrIdxCopy i d z) := rfl

theorem slaIdxMem (i : Idx) (d : Byte) : Statement (.slaIdxMem i d) := rfl

theorem slaIdxCopy (i : Idx) (d : Byte) (z : Reg8) : Statement (.slaIdxCopy i d z) := rfl

theorem sraIdxMem (i : Idx) (d : Byte) : Statement (.sraIdxMem i d) := rfl

theorem sraIdxCopy (i : Idx) (d : Byte) (z : Reg8) : Statement (.sraIdxCopy i d z) := rfl

theorem sllIdxMem (i : Idx) (d : Byte) : Statement (.sllIdxMem i d) := rfl

theorem sllIdxCopy (i : Idx) (d : Byte) (z : Reg8) : Statement (.sllIdxCopy i d z) := rfl

theorem srlIdxMem (i : Idx) (d : Byte) : Statement (.srlIdxMem i d) := rfl

theorem srlIdxCopy (i : Idx) (d : Byte) (z : Reg8) : Statement (.srlIdxCopy i d z) := rfl

theorem bitIdxMem (b : Fin 8) (i : Idx) (d : Byte) : Statement (.bitIdxMem b i d) := rfl

theorem bitIdxDup (b : Fin 8) (i : Idx) (d : Byte) (z : Reg8) : Statement (.bitIdxDup b i d z) := rfl

theorem resIdxMem (b : Fin 8) (i : Idx) (d : Byte) : Statement (.resIdxMem b i d) := rfl

theorem resIdxCopy (b : Fin 8) (i : Idx) (d : Byte) (z : Reg8) : Statement (.resIdxCopy b i d z) := rfl

theorem setIdxMem (b : Fin 8) (i : Idx) (d : Byte) : Statement (.setIdxMem b i d) := rfl

theorem setIdxCopy (b : Fin 8) (i : Idx) (d : Byte) (z : Reg8) : Statement (.setIdxCopy b i d z) := rfl

end Sys2Proof.Laws.Encoding
end

