-- ==== Sys2Proof/Tests/Slice0.lean ====
section
/-!
SUPPORT. Tests: ill-formed terms are refused, words written out from the encoding tables decode to their instructions,
one-step vectors of 95_test_vectors.md, and for every statement with hypotheses a named witness that meets them.
-/

namespace Sys2Proof.Tests

open Sys2Proof.Machine

/-! ### The states the tests start from (95_test_vectors.md section 2, defaults) -/

/-- PC = 0x0100, SP = 0xFF00, every other register 0, plain memory only, settings Silicon, Silicon, Count. -/
def start : State := { State.reset with pc := 0x0100, sp := 0xFF00 }

/-- Bytes stored from an address on. -/
def placed (a : Word) (bytes : List Byte) (s : State) : State := { s with mem := Memory.place s.mem a bytes }

/-- With the bytes at PC, one step goes on to a state that meets the condition. -/
def gives (s : State) (bytes : List Byte) (p : State → Bool) : Bool :=
  match step (placed s.pc bytes s) with
  | .next t => p t
  | .fault _ => false
  | .refused _ => false

/-- The environment answers a byte and does nothing else. -/
def answering (v : Byte) : Config.Answer := 
  { data := v, declined := false, nmi := false, line := none, call := none }

/-- `UNDOC_OPS = Refuse`. -/
def refusing : State := { start with params := { start.params with undocOps := .refuse } }

/-! ### Ill-formed terms are refused, and reserved encodings are no neighbour's -/

/-- One ill-formed term for each check of `Instr.wf`. -/
theorem test_ill_formed_terms_are_refused :
    (Instr.ldNnMemRp .hl 0x1234).wf = false ∧ (Instr.ldRpNnMem .hl 0x1234).wf = false ∧
    (Instr.negDup 0).wf = false ∧ (Instr.retnDup 0).wf = false ∧ (Instr.retnDup 1).wf = false ∧
    (Instr.edUndefined 0x40).wf = false ∧ (Instr.edUndefined 0xB0).wf = false ∧
    (Instr.ldXX .ix .b .c).wf = false := by
  decide

/-- Their neighbours are well formed. -/
theorem test_well_formed_neighbours :
    (Instr.ldNnMemRp .sp 0x1234).wf = true ∧ (Instr.ldRpNnMem .de 0x1234).wf = true ∧ (Instr.negDup 1).wf = true ∧
    (Instr.retnDup 2).wf = true ∧ (Instr.edUndefined 0x77).wf = true ∧ (Instr.edUndefined 0x84).wf = true ∧
    (Instr.ldXX .ix .idxH .c).wf = true ∧ (Instr.ldXX .iy .a .idxL).wf = true := by
  decide

/-- The decoder reads the instruction and leaves the bytes after it. -/
def reads (bytes : List Byte) (i : Instr) (rest : List Byte) : Bool :=
  match decode bytes with
  | .ok (j, more) => j == i && more == rest
  | .error _ => false

/-- The decoder rejects the bytes as too few. -/
def rejects (bytes : List Byte) : Bool :=
  match decode bytes with
  | .ok _ => false
  | .error e => e == .truncated

/-- Truncated bytes are rejected by name, and an ignored prefix needs the byte after it. -/
theorem test_truncated_bytes_are_rejected :
    rejects [] ∧ rejects [0x01, 0x34] ∧ rejects [0xCB] ∧ rejects [0xDD] ∧ rejects [0xDD, 0xCB, 0x01] ∧
    reads [0xDD, 0x00] (.ignoredPrefix .ix) [0x00] ∧ reads [0xFD, 0xDD] (.ignoredPrefix .iy) [0xDD] := by
  decide

/-- The key numbers of the opcode table (R73): one key byte, two, and `px CB op`. -/
theorem test_table_words :
    decodeTableWord 8 0x76 = some .halt ∧ decodeTableWord 16 0xED44 = some .neg ∧
    decodeTableWord 24 0xDDCB06 = some (.rlcIdxMem .ix 0) := by
  decide

/-! ### Words -/

/-- Words written out bit by bit from the base map (30_encoding.md R59). -/
theorem test_words_base_1 :
    reads [0b00000000] .nop [] ∧
    reads [0b00001000] .exAfAf [] ∧
    reads [0b00010000, 0b11111110] (.djnz 0xFE) [] ∧
    reads [0b00011000, 0b10000000] (.jr 0x80) [] ∧
    reads [0b00111000, 0b00000101] (.jrCc .c 0x05) [] ∧
    reads [0b00010001, 0b00110100, 0b00010010] (.ldRpNn .de 0x1234) [] ∧
    reads [0b00111001] (.addHlRp .sp) [] ∧
    reads [0b00010010] (.ldRpMemA .de) [] ∧
    reads [0b00100010, 0b11111110, 0b11111111] (.ldNnMemHl 0xFFFE) [] ∧
    reads [0b00110010, 0b00000001, 0b10000000] (.ldNnMemA 0x8001) [] ∧
    reads [0b00001010] (.ldARpMem .bc) [] ∧
    reads [0b00101010, 0b00000001, 0b10000000] (.ldHlNnMem 0x8001) [] ∧
    reads [0b00111010, 0b00110100, 0b00010010] (.ldANnMem 0x1234) [] ∧
    reads [0b00100011] (.incRp .hl) [] ∧
    reads [0b00001011] (.decRp .bc) [] ∧
    reads [0b00110100] (.incR8 .hlMem) [] ∧
    reads [0b00101101] (.decR8 (.reg .l)) [] ∧
    reads [0b00010110, 0b01011010] (.ldRN .d 0x5A) [] ∧
    reads [0b00110110, 0b00111100] (.ldHlMemN 0x3C) [] ∧
    reads [0b00000111] .rlca [] ∧
    reads [0b00001111] .rrca [] ∧
    reads [0b00010111] .rla [] := by
  decide

/-- Words written out bit by bit from the base map (30_encoding.md R59). -/
theorem test_words_base_2 :
    reads [0b00011111] .rra [] ∧
    reads [0b00100111] .daa [] ∧
    reads [0b00101111] .cpl [] ∧
    reads [0b00110111] .scf [] ∧
    reads [0b00111111] .ccf [] ∧
    reads [0b01000101] (.ldRR .b .l) [] ∧
    reads [0b01111110] (.ldRHlMem .a) [] ∧
    reads [0b01110001] (.ldHlMemR .c) [] ∧
    reads [0b01110110] .halt [] ∧
    reads [0b10000000] (.addAR8 (.reg .b)) [] ∧
    reads [0b10001001] (.adcAR8 (.reg .c)) [] ∧
    reads [0b10010010] (.subR8 (.reg .d)) [] ∧
    reads [0b10011011] (.sbcAR8 (.reg .e)) [] ∧
    reads [0b10100100] (.andR8 (.reg .h)) [] ∧
    reads [0b10101101] (.xorR8 (.reg .l)) [] ∧
    reads [0b10110110] (.orR8 .hlMem) [] ∧
    reads [0b10111111] (.cpR8 (.reg .a)) [] ∧
    reads [0b11100000] (.retCc .po) [] ∧
    reads [0b11110001] (.popRp2 .af) [] ∧
    reads [0b11001001] .ret [] ∧
    reads [0b11011001] .exx [] ∧
    reads [0b11101001] .jpHl [] := by
  decide

/-- Words written out bit by bit from the base map (30_encoding.md R59). -/
theorem test_words_base_3 :
    reads [0b11111001] .ldSpHl [] ∧
    reads [0b11111010, 0b00110100, 0b00010010] (.jpCcNn .m 0x1234) [] ∧
    reads [0b11000011, 0b00000001, 0b10000000] (.jpNn 0x8001) [] ∧
    reads [0b11010011, 0b11111110] (.outNA 0xFE) [] ∧
    reads [0b11011011, 0b00010000] (.inAN 0x10) [] ∧
    reads [0b11100011] .exSpHl [] ∧
    reads [0b11101011] .exDeHl [] ∧
    reads [0b11110011] .di [] ∧
    reads [0b11111011] .ei [] ∧
    reads [0b11101100, 0b00110100, 0b00010010] (.callCcNn .pe 0x1234) [] ∧
    reads [0b11010101] (.pushRp2 .de) [] ∧
    reads [0b11001101, 0b00000001, 0b10000000] (.callNn 0x8001) [] ∧
    reads [0b11000110, 0b00000001] (.addAN 0x01) [] ∧
    reads [0b11001110, 0b00000010] (.adcAN 0x02) [] ∧
    reads [0b11010110, 0b00000011] (.subN 0x03) [] ∧
    reads [0b11011110, 0b00000100] (.sbcAN 0x04) [] ∧
    reads [0b11100110, 0b00000101] (.andN 0x05) [] ∧
    reads [0b11101110, 0b00000110] (.xorN 0x06) [] ∧
    reads [0b11110110, 0b00000111] (.orN 0x07) [] ∧
    reads [0b11111110, 0b00001000] (.cpN 0x08) [] ∧
    reads [0b11101111] (.rst 5) [] := by
  decide

/-- Words written out bit by bit from the `CB` map (R60). -/
theorem test_words_cb :
    reads [0b11001011, 0b00000000] (.rlcR8 (.reg .b)) [] ∧
    reads [0b11001011, 0b00001110] (.rrcR8 .hlMem) [] ∧
    reads [0b11001011, 0b00010001] (.rlR8 (.reg .c)) [] ∧
    reads [0b11001011, 0b00011010] (.rrR8 (.reg .d)) [] ∧
    reads [0b11001011, 0b00100011] (.slaR8 (.reg .e)) [] ∧
    reads [0b11001011, 0b00101100] (.sraR8 (.reg .h)) [] ∧
    reads [0b11001011, 0b00110101] (.sllR8 (.reg .l)) [] ∧
    reads [0b11001011, 0b00111111] (.srlR8 (.reg .a)) [] ∧
    reads [0b11001011, 0b01011110] (.bitR8 3 .hlMem) [] ∧
    reads [0b11001011, 0b10000000] (.resR8 0 (.reg .b)) [] ∧
    reads [0b11001011, 0b11111101] (.setR8 7 (.reg .l)) [] := by
  decide

/-- Words written out bit by bit from the `ED` map (R61). -/
theorem test_words_ed_1 :
    reads [0b11101101, 0b01111000] (.inRC .a) [] ∧
    reads [0b11101101, 0b01110000] .inFC [] ∧
    reads [0b11101101, 0b01011001] (.outCR .e) [] ∧
    reads [0b11101101, 0b01110001] .outC0 [] ∧
    reads [0b11101101, 0b01010010] (.sbcHlRp .de) [] ∧
    reads [0b11101101, 0b01101010] (.adcHlRp .hl) [] ∧
    reads [0b11101101, 0b01110011, 0b00000000, 0b10000000] (.ldNnMemRp .sp 0x8000) [] ∧
    reads [0b11101101, 0b01100011, 0b00110100, 0b00010010] (.ldNnMemHlEd 0x1234) [] ∧
    reads [0b11101101, 0b01001011, 0b00110100, 0b00010010] (.ldRpNnMem .bc 0x1234) [] ∧
    reads [0b11101101, 0b01101011, 0b00000001, 0b10000000] (.ldHlNnMemEd 0x8001) [] ∧
    reads [0b11101101, 0b01000100] .neg [] ∧
    reads [0b11101101, 0b01111100] (.negDup 7) [] ∧
    reads [0b11101101, 0b01000101] .retn [] ∧
    reads [0b11101101, 0b01001101] .reti [] ∧
    reads [0b11101101, 0b01010101] (.retnDup 2) [] ∧
    reads [0b11101101, 0b01000110] .im0 [] ∧
    reads [0b11101101, 0b01010110] .im1 [] ∧
    reads [0b11101101, 0b01011110] .im2 [] ∧
    reads [0b11101101, 0b01100110] .im0Dup [] ∧
    reads [0b11101101, 0b01110110] .im1Dup [] ∧
    reads [0b11101101, 0b01111110] .im2Dup [] ∧
    reads [0b11101101, 0b01101110] (.im01 true) [] := by
  decide

/-- Words written out bit by bit from the `ED` map (R61). -/
theorem test_words_ed_2 :
    reads [0b11101101, 0b01000111] .ldIA [] ∧
    reads [0b11101101, 0b01001111] .ldRA [] ∧
    reads [0b11101101, 0b01010111] .ldAI [] ∧
    reads [0b11101101, 0b01011111] .ldAR [] ∧
    reads [0b11101101, 0b01100111] .rrd [] ∧
    reads [0b11101101, 0b01101111] .rld [] ∧
    reads [0b11101101, 0b10100000] .ldi [] ∧
    reads [0b11101101, 0b10100001] .cpi [] ∧
    reads [0b11101101, 0b10100010] .ini [] ∧
    reads [0b11101101, 0b10100011] .outi [] ∧
    reads [0b11101101, 0b10101000] .ldd [] ∧
    reads [0b11101101, 0b10101001] .cpd [] ∧
    reads [0b11101101, 0b10101010] .ind [] ∧
    reads [0b11101101, 0b10101011] .outd [] ∧
    reads [0b11101101, 0b10110000] .ldir [] ∧
    reads [0b11101101, 0b10110001] .cpir [] ∧
    reads [0b11101101, 0b10110010] .inir [] ∧
    reads [0b11101101, 0b10110011] .otir [] ∧
    reads [0b11101101, 0b10111000] .lddr [] ∧
    reads [0b11101101, 0b10111001] .cpdr [] ∧
    reads [0b11101101, 0b10111010] .indr [] ∧
    reads [0b11101101, 0b10111011] .otdr [] := by
  decide

/-- Words written out bit by bit from the `ED` map (R61). -/
theorem test_words_ed_3 :
    reads [0b11101101, 0b01110111] (.edUndefined 0x77) [] := by
  decide

/-- Words written out bit by bit from the `DD` and `FD` maps (R63). -/
theorem test_words_dd_1 :
    reads [0b11011101, 0b00101001] (.addIdxRp .ix .idx) [] ∧
    reads [0b11111101, 0b00100001, 0b11101111, 0b10111110] (.ldIdxNn .iy 0xBEEF) [] ∧
    reads [0b11011101, 0b00100010, 0b00110100, 0b00010010] (.ldNnMemIdx .ix 0x1234) [] ∧
    reads [0b11111101, 0b00101010, 0b00000001, 0b10000000] (.ldIdxNnMem .iy 0x8001) [] ∧
    reads [0b11011101, 0b00100011] (.incIdx .ix) [] ∧
    reads [0b11111101, 0b00101011] (.decIdx .iy) [] ∧
    reads [0b11011101, 0b00101100] (.incHalf .ix .lo) [] ∧
    reads [0b11111101, 0b00100101] (.decHalf .iy .hi) [] ∧
    reads [0b11011101, 0b00100110, 0b00010010] (.ldHalfN .ix .hi 0x12) [] ∧
    reads [0b11111101, 0b00110100, 0b01111111] (.incIdxMem .iy 0x7F) [] ∧
    reads [0b11011101, 0b00110101, 0b10000000] (.decIdxMem .ix 0x80) [] ∧
    reads [0b11111101, 0b00110110, 0b00000001, 0b10101011] (.ldIdxMemN .iy 0x01 0xAB) [] ∧
    reads [0b11011101, 0b01100110, 0b00000010] (.ldRIdxMem .h .ix 0x02) [] ∧
    reads [0b11111101, 0b01110101, 0b11111111] (.ldIdxMemR .iy 0xFF .l) [] ∧
    reads [0b11111101, 0b01101000] (.ldXX .iy .idxL .b) [] ∧
    reads [0b11011101, 0b10000110, 0b00000001] (.addAIdxMem .ix 0x01) [] ∧
    reads [0b11011101, 0b10000100] (.addAHalf .ix .hi) [] ∧
    reads [0b11111101, 0b10001110, 0b00000010] (.adcAIdxMem .iy 0x02) [] ∧
    reads [0b11111101, 0b10001101] (.adcAHalf .iy .lo) [] ∧
    reads [0b11011101, 0b10010110, 0b00000011] (.subIdxMem .ix 0x03) [] ∧
    reads [0b11011101, 0b10010101] (.subHalf .ix .lo) [] ∧
    reads [0b11111101, 0b10011110, 0b00000100] (.sbcAIdxMem .iy 0x04) [] := by
  decide

/-- Words written out bit by bit from the `DD` and `FD` maps (R63). -/
theorem test_words_dd_2 :
    reads [0b11111101, 0b10011100] (.sbcAHalf .iy .hi) [] ∧
    reads [0b11011101, 0b10100110, 0b00000101] (.andIdxMem .ix 0x05) [] ∧
    reads [0b11011101, 0b10100100] (.andHalf .ix .hi) [] ∧
    reads [0b11111101, 0b10101110, 0b00000110] (.xorIdxMem .iy 0x06) [] ∧
    reads [0b11111101, 0b10101101] (.xorHalf .iy .lo) [] ∧
    reads [0b11011101, 0b10110110, 0b00000111] (.orIdxMem .ix 0x07) [] ∧
    reads [0b11011101, 0b10110101] (.orHalf .ix .lo) [] ∧
    reads [0b11111101, 0b10111110, 0b00001000] (.cpIdxMem .iy 0x08) [] ∧
    reads [0b11111101, 0b10111100] (.cpHalf .iy .hi) [] ∧
    reads [0b11111101, 0b11100001] (.popIdx .iy) [] ∧
    reads [0b11011101, 0b11100011] (.exSpIdx .ix) [] ∧
    reads [0b11111101, 0b11100101] (.pushIdx .iy) [] ∧
    reads [0b11011101, 0b11101001] (.jpIdx .ix) [] ∧
    reads [0b11111101, 0b11111001] (.ldSpIdx .iy) [] := by
  decide

/-- Words written out bit by bit from the `DD CB d op` and `FD CB d op` maps (R64). -/
theorem test_words_xcb :
    reads [0b11011101, 0b11001011, 0b00000001, 0b00000110] (.rlcIdxMem .ix 0x01) [] ∧
    reads [0b11111101, 0b11001011, 0b00000010, 0b00000000] (.rlcIdxCopy .iy 0x02 .b) [] ∧
    reads [0b11111101, 0b11001011, 0b00000011, 0b00001110] (.rrcIdxMem .iy 0x03) [] ∧
    reads [0b11011101, 0b11001011, 0b00000100, 0b00001001] (.rrcIdxCopy .ix 0x04 .c) [] ∧
    reads [0b11011101, 0b11001011, 0b00000101, 0b00010110] (.rlIdxMem .ix 0x05) [] ∧
    reads [0b11111101, 0b11001011, 0b00000110, 0b00010010] (.rlIdxCopy .iy 0x06 .d) [] ∧
    reads [0b11111101, 0b11001011, 0b00000111, 0b00011110] (.rrIdxMem .iy 0x07) [] ∧
    reads [0b11011101, 0b11001011, 0b00001000, 0b00011011] (.rrIdxCopy .ix 0x08 .e) [] ∧
    reads [0b11011101, 0b11001011, 0b00001001, 0b00100110] (.slaIdxMem .ix 0x09) [] ∧
    reads [0b11111101, 0b11001011, 0b00001010, 0b00100100] (.slaIdxCopy .iy 0x0A .h) [] ∧
    reads [0b11111101, 0b11001011, 0b00001011, 0b00101110] (.sraIdxMem .iy 0x0B) [] ∧
    reads [0b11011101, 0b11001011, 0b00001100, 0b00101101] (.sraIdxCopy .ix 0x0C .l) [] ∧
    reads [0b11011101, 0b11001011, 0b00001101, 0b00110110] (.sllIdxMem .ix 0x0D) [] ∧
    reads [0b11111101, 0b11001011, 0b00001110, 0b00110111] (.sllIdxCopy .iy 0x0E .a) [] ∧
    reads [0b11111101, 0b11001011, 0b00001111, 0b00111110] (.srlIdxMem .iy 0x0F) [] ∧
    reads [0b11011101, 0b11001011, 0b00010000, 0b00111000] (.srlIdxCopy .ix 0x10 .b) [] ∧
    reads [0b11011101, 0b11001011, 0b00010000, 0b01001110] (.bitIdxMem 1 .ix 0x10) [] ∧
    reads [0b11111101, 0b11001011, 0b10000000, 0b01110111] (.bitIdxDup 6 .iy 0x80 .a) [] ∧
    reads [0b11111101, 0b11001011, 0b01111111, 0b10010110] (.resIdxMem 2 .iy 0x7F) [] ∧
    reads [0b11011101, 0b11001011, 0b11111110, 0b10101010] (.resIdxCopy 5 .ix 0xFE .d) [] ∧
    reads [0b11011101, 0b11001011, 0b11111111, 0b11100110] (.setIdxMem 4 .ix 0xFF) [] ∧
    reads [0b11111101, 0b11001011, 0b11111111, 0b11111111] (.setIdxCopy 7 .iy 0xFF .a) [] := by
  decide
/-! ### One-step vectors (95_test_vectors.md section 2) -/

/-- 95_test_vectors.md, VL1 to VL10. -/
theorem test_loads_1 :
    -- VL1
    (gives { start with regs := { Bank.zero with c := 0x5A } } [0x41] fun t =>
      t.regs.b == 0x5A) ∧
    -- VL2
    (gives start [0x3E, 0xFF] fun t =>
      t.regs.a == 0xFF) ∧
    -- VL3
    (gives (placed 0x8000 [0x99] { start with regs := { Bank.zero with h := 0x80, l := 0x00 } }) [0x5E] fun t =>
      t.regs.e == 0x99) ∧
    -- VL4
    (gives (placed 0x8000 [0x42] { start with ix := 0x8001 }) [0xDD, 0x7E, 0xFF] fun t =>
      t.regs.a == 0x42) ∧
    -- VL5
    (gives (placed 0x8002 [0x77] { start with ix := 0x8000 }) [0xDD, 0x66, 0x02] fun t =>
      t.regs.h == 0x77) ∧
    -- VL6
    (gives { start with regs := { Bank.zero with a := 0x11 }, iy := 0x8000 } [0xFD, 0x77, 0x7F] fun t =>
      t.byteAt 0x807F == 0x11) ∧
    -- VL7
    (gives { start with ix := 0xFFFF } [0xDD, 0x36, 0x01, 0xAB] fun t =>
      t.byteAt 0x0000 == 0xAB) ∧
    -- VL8
    (gives { start with regs := { Bank.zero with h := 0x80, l := 0x00 } } [0x36, 0x3C] fun t =>
      t.byteAt 0x8000 == 0x3C) ∧
    -- VL9
    (gives { start with regs := { Bank.zero with b := 0x80, c := 0x00, a := 0x12 } } [0x02] fun t =>
      t.byteAt 0x8000 == 0x12) ∧
    -- VL10
    (gives (placed 0x1234 [0xEE] start) [0x3A, 0x34, 0x12] fun t =>
      t.regs.a == 0xEE) := by
  decide

/-- 95_test_vectors.md, VL11 to VL20. -/
theorem test_loads_2 :
    -- VL11
    (gives { start with regs := { Bank.zero with a := 0x5C } } [0x32, 0xFF, 0xFF] fun t =>
      t.byteAt 0xFFFF == 0x5C) ∧
    -- VL12
    (gives { start with ix := 0x3456 } [0xDD, 0x26, 0x12] fun t =>
      t.ix == 0x1256) ∧
    -- VL13
    (gives { start with regs := { Bank.zero with b := 0x99 }, iy := 0x3456 } [0xFD, 0x68] fun t =>
      t.iy == 0x3499) ∧
    -- VL14
    (gives start [0x01, 0x34, 0x12] fun t =>
      t.regs.b == 0x12 && t.regs.c == 0x34) ∧
    -- VL15
    (gives start [0xDD, 0x21, 0xEF, 0xBE] fun t =>
      t.ix == 0xBEEF) ∧
    -- VL16
    (gives (placed 0x8000 [0x34, 0x12] start) [0x2A, 0x00, 0x80] fun t =>
      t.regs.h == 0x12 && t.regs.l == 0x34) ∧
    -- VL17
    (gives { start with regs := { Bank.zero with h := 0xAB, l := 0xCD } } [0x22, 0xFF, 0xFF] fun t =>
      t.byteAt 0x0000 == 0xAB && t.byteAt 0xFFFF == 0xCD) ∧
    -- VL18
    (gives (placed 0x8000 [0x00, 0xC0] start) [0xED, 0x7B, 0x00, 0x80] fun t =>
      t.sp == 0xC000) ∧
    -- VL19
    (gives { start with regs := { Bank.zero with d := 0x13, e := 0x57 } } [0xED, 0x53, 0x00, 0x80] fun t =>
      t.byteAt 0x8000 == 0x57 && t.byteAt 0x8001 == 0x13) ∧
    -- VL20
    (gives { start with regs := { Bank.zero with h := 0x40, l := 0x00 } } [0xF9] fun t =>
      t.sp == 0x4000) := by
  decide

/-- 95_test_vectors.md, VL21 to VL30. -/
theorem test_loads_3 :
    -- VL21
    (gives { start with regs := { Bank.zero with b := 0x12, c := 0x34 } } [0xC5] fun t =>
      t.sp == 0xFEFE && t.byteAt 0xFEFE == 0x34 && t.byteAt 0xFEFF == 0x12) ∧
    -- VL22
    (gives { start with regs := { Bank.zero with a := 0x12, f := Flags.ofByte 0xD7 }, sp := 0x1 } [0xF5] fun t =>
      t.sp == 0xFFFF && t.byteAt 0x0000 == 0x12 && t.byteAt 0xFFFF == 0xD7) ∧
    -- VL23
    (gives (placed 0x8000 [0xFF, 0x00] { start with sp := 0x8000 }) [0xF1] fun t =>
      t.sp == 0x8002 && t.regs.f.toByte == 0b11111111) ∧
    -- VL24
    (gives (placed 0x8000 [0x78, 0x56] { start with sp := 0x8000 }) [0xFD, 0xE1] fun t =>
      t.iy == 0x5678 && t.sp == 0x8002) ∧
    -- VL25
    (gives { start with regs := { Bank.zero with d := 0x11, e := 0x11, h := 0x22, l := 0x22 } } [0xEB] fun t =>
      t.regs.d == 0x22 && t.regs.e == 0x22 && t.regs.h == 0x11 && t.regs.l == 0x11) ∧
    -- VL27
    (gives (placed 0x8000 [0x34, 0x12] { start with sp := 0x8000, ix := 0xABCD }) [0xDD, 0xE3] fun t =>
      t.ix == 0x1234 && t.byteAt 0x8000 == 0xCD && t.byteAt 0x8001 == 0xAB) ∧
    -- VL28
    (gives (placed 0x8000 [0x0A] { start with regs := { Bank.zero with h := 0x80, l := 0x00, d := 0x90, e := 0x00, b := 0x00, c := 0x01, a := 0x00 } })
      [0xED, 0xA0] fun t =>
      t.regs.c == 0x00 && t.regs.e == 0x01 && t.regs.l == 0x01 && t.regs.f.toByte == 0b00101000 &&
      t.byteAt 0x9000 == 0x0A) ∧
    -- VL29
    (gives (placed 0x8000 [0x02] { start with regs := { Bank.zero with h := 0x80, l := 0x00, d := 0x90, e := 0x00, b := 0x00, c := 0x00, a := 0x20 } })
      [0xED, 0xA8] fun t =>
      t.regs.b == 0xFF && t.regs.c == 0xFF && t.regs.d == 0x8F && t.regs.e == 0xFF && t.regs.h == 0x7F &&
      t.regs.l == 0xFF && t.regs.f.toByte == 0b00100100 && t.byteAt 0x9000 == 0x02) ∧
    -- VL30
    (gives (placed 0x8000 [0x01, 0x02, 0x03] { start with regs := { Bank.zero with h := 0x80, l := 0x00, d := 0x90, e := 0x00, b := 0x00, c := 0x03 } })
      [0xED, 0xB0] fun t =>
      t.regs.c == 0x02 && t.regs.e == 0x01 && t.regs.l == 0x01 && !t.regs.f.s && !t.regs.f.z && !t.regs.f.h &&
      t.regs.f.pv && !t.regs.f.n && !t.regs.f.c && t.byteAt 0x9000 == 0x01) := by
  decide

/-- 95_test_vectors.md, VA1 to VA10. -/
theorem test_arithmetic_1 :
    -- VA1
    (gives { start with regs := { Bank.zero with a := 0x7F, b := 0x01 } } [0x80] fun t =>
      t.regs.a == 0x80 && t.regs.f.toByte == 0b10010100) ∧
    -- VA2
    (gives { start with regs := { Bank.zero with a := 0xFF } } [0xC6, 0x01] fun t =>
      t.regs.a == 0x00 && t.regs.f.toByte == 0b01010001) ∧
    -- VA3
    (gives (placed 0x8000 [0x00] { start with regs := { Bank.zero with a := 0x0F, h := 0x80, l := 0x00, f := Flags.ofByte 0x01 } })
      [0x8E] fun t =>
      t.regs.a == 0x10 && t.regs.f.toByte == 0b00010000) ∧
    -- VA4
    (gives { start with regs := { Bank.zero with a := 0x80, b := 0x01 } } [0x90] fun t =>
      t.regs.a == 0x7F && t.regs.f.toByte == 0b00111110) ∧
    -- VA5
    (gives { start with regs := { Bank.zero with a := 0x00 } } [0xD6, 0x01] fun t =>
      t.regs.a == 0xFF && t.regs.f.toByte == 0b10111011) ∧
    -- VA6
    (gives { start with regs := { Bank.zero with a := 0x10, c := 0x0F, f := Flags.ofByte 0x01 } } [0x99] fun t =>
      t.regs.a == 0x00 && t.regs.f.toByte == 0b01010010) ∧
    -- VA7
    (gives { start with regs := { Bank.zero with a := 0xF3 } } [0xE6, 0x0F] fun t =>
      t.regs.a == 0x03 && t.regs.f.toByte == 0b00010100) ∧
    -- VA8
    (gives { start with regs := { Bank.zero with a := 0x5A, f := Flags.ofByte 0xFF } } [0xAF] fun t =>
      t.regs.a == 0x00 && t.regs.f.toByte == 0b01000100) ∧
    -- VA9
    (gives (placed 0x8000 [0x80] { start with regs := { Bank.zero with a := 0x01 }, ix := 0x8000 })
      [0xDD, 0xB6, 0x00] fun t =>
      t.regs.a == 0x81 && t.regs.f.toByte == 0b10000100) ∧
    -- VA10
    (gives { start with regs := { Bank.zero with a := 0x10 } } [0xFE, 0x28] fun t =>
      t.regs.f.toByte == 0b10111011) := by
  decide

/-- 95_test_vectors.md, VA11 to VA20. -/
theorem test_arithmetic_2 :
    -- VA11
    (gives { start with regs := { Bank.zero with a := 0x42, b := 0x42 } } [0xB8] fun t =>
      t.regs.f.toByte == 0b01000010) ∧
    -- VA12
    (gives { start with regs := { Bank.zero with a := 0x01 }, ix := 0xF00 } [0xDD, 0x84] fun t =>
      t.regs.a == 0x10 && t.regs.f.toByte == 0b00010000) ∧
    -- VA13
    (gives (placed 0x8000 [0xFF] { start with regs := { Bank.zero with h := 0x80, l := 0x00, f := Flags.ofByte 0x01 } })
      [0x34] fun t =>
      t.regs.f.toByte == 0b01010001 && t.byteAt 0x8000 == 0x00) ∧
    -- VA14
    (gives { start with regs := { Bank.zero with a := 0x80 } } [0x3D] fun t =>
      t.regs.a == 0x7F && t.regs.f.toByte == 0b00111110) ∧
    -- VA15
    (gives (placed 0x8000 [0x01] { start with iy := 0x8002 }) [0xFD, 0x35, 0xFE] fun t =>
      t.regs.f.toByte == 0b01000010 && t.byteAt 0x8000 == 0x00) ∧
    -- VA16
    (gives { start with ix := 0x12FF } [0xDD, 0x2C] fun t =>
      t.ix == 0x1200 && t.regs.f.toByte == 0b01010000) ∧
    -- VA17
    (gives { start with regs := { Bank.zero with a := 0x9A, f := Flags.ofByte 0x00 } } [0x27] fun t =>
      t.regs.a == 0x00 && t.regs.f.toByte == 0b01010101) ∧
    -- VA18
    (gives { start with regs := { Bank.zero with a := 0x0F, f := Flags.ofByte 0x12 } } [0x27] fun t =>
      t.regs.a == 0x09 && t.regs.f.toByte == 0b00001110) ∧
    -- VA19
    (gives { start with regs := { Bank.zero with a := 0x00, f := Flags.ofByte 0x01 } } [0x27] fun t =>
      t.regs.a == 0x60 && t.regs.f.toByte == 0b00100101) ∧
    -- VA20
    (gives { start with regs := { Bank.zero with a := 0x5A } } [0x2F] fun t =>
      t.regs.a == 0xA5 && t.regs.f.toByte == 0b00110010) := by
  decide

/-- 95_test_vectors.md, VA21 to VA30. -/
theorem test_arithmetic_3 :
    -- VA21
    (gives { start with regs := { Bank.zero with a := 0x80 } } [0xED, 0x44] fun t =>
      t.regs.f.toByte == 0b10000111) ∧
    -- VA22
    (gives { start with regs := { Bank.zero with a := 0x00 } } [0xED, 0x44] fun t =>
      t.regs.f.toByte == 0b01000010) ∧
    -- VA23
    (gives { start with regs := { Bank.zero with f := Flags.ofByte 0xC4 } } [0x37] fun t =>
      t.regs.f.s && t.regs.f.z && !t.regs.f.h && t.regs.f.pv && !t.regs.f.n && t.regs.f.c) ∧
    -- VA24
    (gives { start with regs := { Bank.zero with f := Flags.ofByte 0x01 } } [0x3F] fun t =>
      !t.regs.f.s && !t.regs.f.z && t.regs.f.h && !t.regs.f.pv && !t.regs.f.n && !t.regs.f.c) ∧
    -- VA25
    (gives { start with regs := { Bank.zero with h := 0x80, l := 0x00, d := 0x80, e := 0x00, f := Flags.ofByte 0xC4 } }
      [0x19] fun t =>
      t.regs.h == 0x00 && t.regs.f.toByte == 0b11000101) ∧
    -- VA26
    (gives { start with regs := { Bank.zero with h := 0x0F, l := 0xFF, b := 0x00, c := 0x01 } } [0x09] fun t =>
      t.regs.h == 0x10 && t.regs.l == 0x00 && t.regs.f.toByte == 0b00010000) ∧
    -- VA27
    (gives { start with iy := 0x4000 } [0xFD, 0x29] fun t =>
      t.iy == 0x8000) ∧
    -- VA28
    (gives { start with regs := { Bank.zero with h := 0x7F, l := 0xFF, b := 0x00, c := 0x00, f := Flags.ofByte 0x01 } }
      [0xED, 0x4A] fun t =>
      t.regs.h == 0x80 && t.regs.l == 0x00 && t.regs.f.toByte == 0b10010100) ∧
    -- VA29
    (gives { start with regs := { Bank.zero with h := 0x00, l := 0x00, d := 0x00, e := 0x01 } } [0xED, 0x52] fun t =>
      t.regs.h == 0xFF && t.regs.l == 0xFF && t.regs.f.toByte == 0b10111011) ∧
    -- VA30
    (gives { start with regs := { Bank.zero with h := 0x12, l := 0x34 } } [0xED, 0x62] fun t =>
      t.regs.h == 0x00 && t.regs.l == 0x00 && t.regs.f.toByte == 0b01000010) := by
  decide

/-- 95_test_vectors.md, VA31 to VA34. -/
theorem test_arithmetic_4 :
    -- VA31
    (gives { start with regs := { Bank.zero with b := 0xFF, c := 0xFF, f := Flags.ofByte 0x55 } } [0x03] fun t =>
      t.regs.b == 0x00 && t.regs.c == 0x00) ∧
    -- VA32
    (gives { start with sp := 0x0 } [0x3B] fun t =>
      t.sp == 0xFFFF) ∧
    -- VA33
    (gives (placed 0x8000 [0x03] { start with regs := { Bank.zero with a := 0x03, h := 0x80, l := 0x00, b := 0x00, c := 0x02 } })
      [0xED, 0xA1] fun t =>
      t.regs.c == 0x01 && t.regs.l == 0x01 && t.regs.f.toByte == 0b01000110) ∧
    -- VA34
    (gives (placed 0x8000 [0x01] { start with regs := { Bank.zero with a := 0x10, h := 0x80, l := 0x00, b := 0x00, c := 0x01 } })
      [0xED, 0xA9] fun t =>
      t.regs.c == 0x00 && t.regs.h == 0x7F && t.regs.l == 0xFF && t.regs.f.toByte == 0b00111010) := by
  decide

/-- 95_test_vectors.md, VR1 to VR10. -/
theorem test_rotates_1 :
    -- VR1
    (gives { start with regs := { Bank.zero with a := 0x81, f := Flags.ofByte 0xC4 } } [0x07] fun t =>
      t.regs.a == 0x03 && t.regs.f.toByte == 0b11000101) ∧
    -- VR2
    (gives { start with regs := { Bank.zero with a := 0x01 } } [0x0F] fun t =>
      t.regs.a == 0x80 && t.regs.f.toByte == 0b00000001) ∧
    -- VR3
    (gives { start with regs := { Bank.zero with a := 0x80 } } [0x17] fun t =>
      t.regs.a == 0x00 && t.regs.f.toByte == 0b00000001) ∧
    -- VR4
    (gives { start with regs := { Bank.zero with a := 0x01, f := Flags.ofByte 0x01 } } [0x1F] fun t =>
      t.regs.a == 0x80) ∧
    -- VR5
    (gives { start with regs := { Bank.zero with b := 0x80 } } [0xCB, 0x00] fun t =>
      t.regs.b == 0x01 && t.regs.f.toByte == 0b00000001) ∧
    -- VR6
    (gives (placed 0x8000 [0x01] { start with regs := { Bank.zero with h := 0x80, l := 0x00 } }) [0xCB, 0x0E] fun t =>
      t.regs.f.toByte == 0b10000001 && t.byteAt 0x8000 == 0x80) ∧
    -- VR7
    (gives { start with regs := { Bank.zero with c := 0x80 } } [0xCB, 0x11] fun t =>
      t.regs.c == 0x00 && t.regs.f.toByte == 0b01000101) ∧
    -- VR8
    (gives { start with regs := { Bank.zero with d := 0x01, f := Flags.ofByte 0x01 } } [0xCB, 0x1A] fun t =>
      t.regs.d == 0x80 && t.regs.f.toByte == 0b10000001) ∧
    -- VR9
    (gives { start with regs := { Bank.zero with e := 0xC0 } } [0xCB, 0x23] fun t =>
      t.regs.e == 0x80 && t.regs.f.toByte == 0b10000001) ∧
    -- VR10
    (gives { start with regs := { Bank.zero with h := 0x81 } } [0xCB, 0x2C] fun t =>
      t.regs.h == 0xC0 && t.regs.f.toByte == 0b10000101) := by
  decide

/-- 95_test_vectors.md, VR11 to VR20. -/
theorem test_rotates_2 :
    -- VR11
    (gives { start with regs := { Bank.zero with l := 0x80 } } [0xCB, 0x35] fun t =>
      t.regs.l == 0x01 && t.regs.f.toByte == 0b00000001) ∧
    -- VR12
    (gives { start with regs := { Bank.zero with a := 0x01 } } [0xCB, 0x3F] fun t =>
      t.regs.a == 0x00 && t.regs.f.toByte == 0b01000101) ∧
    -- VR13
    (gives (placed 0x8001 [0x81] { start with ix := 0x8000 }) [0xDD, 0xCB, 0x01, 0x00] fun t =>
      t.regs.b == 0x03 && t.regs.f.toByte == 0b00000101 && t.byteAt 0x8001 == 0x03) ∧
    -- VR14
    (gives { start with regs := { Bank.zero with a := 0x80 } } [0xCB, 0x7F] fun t =>
      t.regs.f.toByte == 0b10010000) ∧
    -- VR15
    (gives { start with regs := { Bank.zero with b := 0x28 } } [0xCB, 0x40] fun t =>
      t.regs.f.toByte == 0b01111100) ∧
    -- VR16
    (gives (placed 0x8000 [0x00] { start with regs := { Bank.zero with h := 0x80, l := 0x00 } }) [0xCB, 0x5E] fun t =>
      !t.regs.f.s && t.regs.f.z && t.regs.f.h && t.regs.f.pv && !t.regs.f.n && !t.regs.f.c) ∧
    -- VR17
    (gives (placed 0x2810 [0x02] { start with ix := 0x2800 }) [0xDD, 0xCB, 0x10, 0x4E] fun t =>
      t.regs.f.toByte == 0b00111000) ∧
    -- VR18
    (gives (placed 0x8000 [0xFF] { start with regs := { Bank.zero with h := 0x80, l := 0x00 } }) [0xCB, 0x86] fun t =>
      t.byteAt 0x8000 == 0xFE) ∧
    -- VR19
    (gives (placed 0x8000 [0x01] { start with iy := 0x8001 }) [0xFD, 0xCB, 0xFF, 0xFF] fun t =>
      t.regs.a == 0x81 && t.byteAt 0x8000 == 0x81) ∧
    -- VR20
    (gives (placed 0x8000 [0x34] { start with regs := { Bank.zero with a := 0x12, h := 0x80, l := 0x00 } })
      [0xED, 0x6F] fun t =>
      t.regs.a == 0x13 && t.byteAt 0x8000 == 0x42) := by
  decide

/-- 95_test_vectors.md, VR21 to VR21. -/
theorem test_rotates_3 :
    -- VR21
    (gives (placed 0x8000 [0x34] { start with regs := { Bank.zero with a := 0x12, h := 0x80, l := 0x00 } })
      [0xED, 0x67] fun t =>
      t.regs.a == 0x14 && t.regs.f.toByte == 0b00000100 && t.byteAt 0x8000 == 0x23) := by
  decide

/-- 95_test_vectors.md, VC1 to VC10. -/
theorem test_control_1 :
    -- VC1
    (gives start [0xC3, 0x34, 0x12] fun t =>
      t.pc == 0x1234) ∧
    -- VC2
    (gives { start with regs := { Bank.zero with f := Flags.ofByte 0x40 } } [0xC2, 0x34, 0x12] fun t =>
      t.pc == 0x0103) ∧
    -- VC3
    (gives { start with regs := { Bank.zero with f := Flags.ofByte 0x04 } } [0xEA, 0x00, 0x20] fun t =>
      t.pc == 0x2000) ∧
    -- VC4
    (gives start [0xFA, 0x00, 0x20] fun t =>
      t.pc == 0x0103) ∧
    -- VC5
    (gives start [0x18, 0xFE] fun t =>
      t.regs.f == Flags.none && t.pc == 0x0100) ∧
    -- VC6
    (gives start [0x18, 0x7F] fun t =>
      t.pc == 0x0181) ∧
    -- VC7
    (gives start [0x18, 0x80] fun t =>
      t.pc == 0x0082) ∧
    -- VC8
    (gives start [0x30, 0x05] fun t =>
      t.pc == 0x0107) ∧
    -- VC9
    (gives start [0x38, 0x05] fun t =>
      t.pc == 0x0102) ∧
    -- VC10
    (gives { start with regs := { Bank.zero with b := 0x01 } } [0x10, 0xFE] fun t =>
      t.regs.b == 0x00 && t.pc == 0x0102) := by
  decide

/-- 95_test_vectors.md, VC11 to VC20. -/
theorem test_control_2 :
    -- VC11
    (gives { start with regs := { Bank.zero with b := 0x00 } } [0x10, 0xFE] fun t =>
      t.regs.b == 0xFF) ∧
    -- VC12
    (gives { start with regs := { Bank.zero with h := 0x43, l := 0x21 } } [0xE9] fun t =>
      t.pc == 0x4321) ∧
    -- VC13
    (gives { start with iy := 0x8765 } [0xFD, 0xE9] fun t =>
      t.pc == 0x8765) ∧
    -- VC14
    (gives start [0xCD, 0x00, 0x30] fun t =>
      t.sp == 0xFEFE && t.pc == 0x3000 && t.byteAt 0xFEFE == 0x03 && t.byteAt 0xFEFF == 0x01) ∧
    -- VC15
    (gives start [0xCC, 0x00, 0x30] fun t =>
      t.pc == 0x0103) ∧
    -- VC16
    (gives { start with regs := { Bank.zero with f := Flags.ofByte 0x01 } } [0xDC, 0x00, 0x30] fun t =>
      t.sp == 0xFEFE && t.pc == 0x3000 && t.byteAt 0xFEFE == 0x03 && t.byteAt 0xFEFF == 0x01) ∧
    -- VC17
    (gives (placed 0x8000 [0x34, 0x12] { start with sp := 0x8000 }) [0xC9] fun t =>
      t.sp == 0x8002 && t.pc == 0x1234) ∧
    -- VC18
    (gives (placed 0x8000 [0x34, 0x12] { start with sp := 0x8000 }) [0xC0] fun t =>
      t.sp == 0x8002 && t.pc == 0x1234) ∧
    -- VC19
    (gives (placed 0x8000 [0x34, 0x12] { start with regs := { Bank.zero with f := Flags.ofByte 0x80 }, sp := 0x8000 })
      [0xF0] fun t =>
      t.pc == 0x0101) ∧
    -- VC20
    (gives (placed 0x8000 [0x34, 0x12] { start with sp := 0x8000, iff1 := false, iff2 := true }) [0xED, 0x45] fun t =>
      t.sp == 0x8002 && t.pc == 0x1234 && t.iff1) := by
  decide

/-- 95_test_vectors.md, VC21 to VC23. -/
theorem test_control_3 :
    -- VC21
    (gives (placed 0x8000 [0x34, 0x12] { start with sp := 0x8000, iff1 := false, iff2 := false })
      [0xED, 0x4D] fun t =>
      t.sp == 0x8002 && t.pc == 0x1234) ∧
    -- VC22
    (gives start [0xEF] fun t =>
      t.sp == 0xFEFE && t.pc == 0x0028 && t.byteAt 0xFEFE == 0x01 && t.byteAt 0xFEFF == 0x01) ∧
    -- VC23
    (gives { start with sp := 0x0 } [0xFF] fun t =>
      t.sp == 0xFFFE && t.pc == 0x0038 && t.byteAt 0xFFFE == 0x01 && t.byteAt 0xFFFF == 0x01) := by
  decide

/-- 95_test_vectors.md, VI1 to VI10. -/
theorem test_ports_1 :
    -- VI1
    (gives { start with regs := { Bank.zero with a := 0x12 }, answers := [answering 0x5A] } [0xDB, 0xFE] fun t =>
      t.regs.a == 0x5A) ∧
    -- VI2
    (gives { start with regs := { Bank.zero with b := 0x01, c := 0xFE, f := Flags.ofByte 0x01 }, answers := [answering 0x00] }
      [0xED, 0x50] fun t =>
      t.regs.f.toByte == 0b01000101) ∧
    -- VI3
    (gives { start with regs := { Bank.zero with b := 0x01, c := 0x10 }, answers := [answering 0x80] }
      [0xED, 0x70] fun t =>
      t.regs.f.toByte == 0b10000000) ∧
    -- VI4
    (gives { start with regs := { Bank.zero with a := 0x3C }, answers := [answering 0x00] } [0xD3, 0x10] fun t =>
      t.trace.head? == some (.ioWrite 0x3C10 0x3C)) ∧
    -- VI5
    (gives { start with regs := { Bank.zero with b := 0x12, c := 0x34, e := 0x99 }, answers := [answering 0x00] }
      [0xED, 0x59] fun t =>
      t.trace.head? == some (.ioWrite 0x1234 0x99)) ∧
    -- VI6
    (gives { start with regs := { Bank.zero with b := 0x00, c := 0xFE }, answers := [answering 0x00] }
      [0xED, 0x71] fun t =>
      t.trace.head? == some (.ioWrite 0x00FE 0x00)) ∧
    -- VI7
    (gives { start with regs := { Bank.zero with b := 0x02, c := 0x10, h := 0x80, l := 0x00 }, answers := [answering 0xAA] }
      [0xED, 0xA2] fun t =>
      t.regs.b == 0x01 && t.regs.l == 0x01 && t.regs.f.toByte == 0b00000010 && t.byteAt 0x8000 == 0xAA) ∧
    -- VI8
    (gives { start with regs := { Bank.zero with b := 0x01, c := 0x10, h := 0x80, l := 0x00 }, answers := [answering 0x80] }
      [0xED, 0xAA] fun t =>
      t.regs.b == 0x00 && t.regs.h == 0x7F && t.regs.l == 0xFF && t.regs.f.toByte == 0b01000010 &&
      t.byteAt 0x8000 == 0x80) ∧
    -- VI9
    (gives (placed 0x8020 [0xF0] { start with regs := { Bank.zero with b := 0x01, c := 0x10, h := 0x80, l := 0x20 }, answers := [answering 0x00] })
      [0xED, 0xA3] fun t =>
      t.regs.b == 0x00 && t.regs.l == 0x21 && t.regs.f.toByte == 0b01010011 &&
      t.trace.head? == some (.ioWrite 0x0010 0xF0)) ∧
    -- VI10
    (gives (placed 0x80FF [0x01] { start with regs := { Bank.zero with b := 0x02, c := 0x98, h := 0x80, l := 0xFF }, answers := [answering 0x00] })
      [0xED, 0xAB] fun t =>
      t.regs.b == 0x01 && t.regs.l == 0xFE && t.regs.f.toByte == 0b00000100 &&
      t.trace.head? == some (.ioWrite 0x0198 0x01)) := by
  decide

/-- 95_test_vectors.md, VI11 to VI14. -/
theorem test_ports_2 :
    -- VI11
    (gives { start with regs := { Bank.zero with b := 0x02, c := 0x10, h := 0x80, l := 0x00 }, answers := [answering 0xAA] }
      [0xED, 0xB2] fun t =>
      t.regs.b == 0x01 && t.regs.l == 0x01 && !t.regs.f.s && !t.regs.f.z && t.regs.f.n && !t.regs.f.c &&
      t.byteAt 0x8000 == 0xAA) ∧
    -- VI14
    (gives (placed 0x8000 [0x7F] { start with regs := { Bank.zero with b := 0x01, c := 0x40, h := 0x80, l := 0x00 }, answers := [answering 0x00] })
      [0xED, 0xBB] fun t =>
      t.regs.b == 0x00 && t.regs.h == 0x7F && t.regs.l == 0xFF && t.regs.f.toByte == 0b01010101 &&
      t.trace.head? == some (.ioWrite 0x0040 0x7F)) := by
  decide

/-- 95_test_vectors.md, VS1 to VS11. -/
theorem test_system_1 :
    -- VS1
    (gives start [0x00] fun t =>
      t.pc == 0x0101) ∧
    -- VS2
    (gives start [0x76] fun t =>
      t.halted) ∧
    -- VS3
    (gives { start with iff1 := true, iff2 := true } [0xF3] fun t =>
      t.pc == 0x0101 && !t.iff1 && !t.iff2) ∧
    -- VS4
    (gives start [0xFB] fun t =>
      t.pc == 0x0101 && t.iff1 && t.iff2) ∧
    -- VS5
    (gives start [0xED, 0x56] fun t =>
      t.pc == 0x0102 && t.im == .im1) ∧
    -- VS6
    (gives start [0xED, 0x5E] fun t =>
      t.pc == 0x0102 && t.im == .im2) ∧
    -- VS7
    (gives { start with regs := { Bank.zero with a := 0xFE } } [0xED, 0x47] fun t =>
      t.pc == 0x0102 && t.i == 0xFE) ∧
    -- VS8
    (gives { start with i := 0x80, iff2 := true } [0xED, 0x57] fun t =>
      t.regs.a == 0x80 && t.pc == 0x0102 && t.regs.f.toByte == 0b10000100) ∧
    -- VS9
    (gives { start with r := 0x7E } [0xED, 0x5F] fun t =>
      t.pc == 0x0102 && t.regs.f.toByte == 0b01000000) ∧
    -- VS11
    (gives start [0xED, 0x00] fun t =>
      t.pc == 0x0102) := by
  decide

/-- 95_test_vectors.md, VS12 to VS13. -/
theorem test_system_2 :
    -- VS12
    (gives start [0xED, 0x77] fun t =>
      t.pc == 0x0102) ∧
    -- VS13
    (gives start [0xDD, 0x00] fun t =>
      t.pc == 0x0101) := by
  decide

/-! ### The poll (95_test_vectors.md section 3) -/

/-- VX1, VX2, VX4: acceptance in mode 1, of an NMI, and in mode 0. -/
theorem test_acceptance :
    (gives { start with iff1 := true, iff2 := true, im := .im1, intLine := true } [] fun t =>
      t.pc == 0x0038 && t.byteAt 0xFEFE == 0x00 && t.byteAt 0xFEFF == 0x01 && !t.iff1 && !t.iff2 && t.intLine) ∧
    (gives { start with iff1 := true, iff2 := true, nmiLatch := true } [] fun t =>
      t.pc == 0x0066 && t.sp == 0xFEFE && !t.iff1 && t.iff2 && !t.nmiLatch && t.r == 0x01) ∧
    (gives { start with iff1 := true, intLine := true, provider := true, answers := [answering 0xCF] } [] fun t =>
      t.pc == 0x0008 && t.sp == 0xFEFE && !t.iff1) := by
  decide

/-- VX5, VX6, VX9: an invalid selector, no provider, and None: the `NOP` at 0x0100 executes. -/
theorem test_no_acceptance :
    (gives { start with iff1 := true, intLine := true, provider := true, answers := [answering 0x00] } [] fun t =>
      t.pc == 0x0101 && t.iff1 && t.intLine) ∧
    (gives { start with iff1 := true, intLine := true } [] fun t => t.pc == 0x0101 && t.iff1 && t.intLine) ∧
    (gives
      { start with
        iff1 := true
        intLine := true
        im := .im2
        provider := true
        answers := [{ answering 0x10 with declined := true }] } [] fun t =>
      t.pc == 0x0101 && t.iff1 && t.intLine) := by
  decide

/-- VX7, VX8: mode 2, with an even and an odd pointer; VX17: in mode 1 the provider clears the line. -/
theorem test_vectors_of_mode_2_and_the_provider :
    (gives (placed 0x8010 [0x00, 0x30]
      { start with
        iff1 := true
        intLine := true
        im := .im2
        i := 0x80
        provider := true
        answers := [answering 0x10] }) [] fun t => t.pc == 0x3000 && t.sp == 0xFEFE) ∧
    (gives (placed 0x80FF [0x34, 0x12]
      { start with
        iff1 := true
        intLine := true
        im := .im2
        i := 0x80
        provider := true
        answers := [answering 0xFF] }) [] fun t => t.pc == 0x1234) ∧
    (gives
      { start with
        iff1 := true
        intLine := true
        im := .im1
        provider := true
        answers := [{ answering 0 with declined := true, line := some false }] } [] fun t =>
      t.pc == 0x0038 && !t.intLine) := by
  decide

/-- VX10, VX11: an acceptance of a halted core pushes the address after the `HALT`. -/
theorem test_acceptance_when_halted :
    (gives { start with halted := true, iff1 := true, im := .im1, intLine := true } [0x76] fun t =>
      t.pc == 0x0038 && t.byteAt 0xFEFE == 0x01 && t.byteAt 0xFEFF == 0x01 && !t.halted) ∧
    (gives { start with halted := true, nmiLatch := true } [0x76] fun t =>
      t.pc == 0x0066 && t.byteAt 0xFEFE == 0x01 && !t.iff2 && !t.halted) ∧
    (gives { start with halted := true } [0x76] fun t => t.pc == 0x0100 && t.halted && t.trace == []) := by
  decide

/-- The state and the count of a `Run` that returns. -/
def returned (o : Host.Outcome (State × Nat) Fault Refusal) (p : State → Nat → Bool) : Bool :=
  match o with
  | .next (t, n) => p t n
  | .fault _ => false
  | .refused _ => false

/-- `Run` ends in the fault. -/
def faults (o : Host.Outcome (State × Nat) Fault Refusal) (fault : Fault) : Bool :=
  match o with
  | .next _ => false
  | .fault f => f == fault
  | .refused _ => false

/-- A core after `Init` and before `Reset` or `LoadContext` (70_reset_and_hazards.md rule R246). -/
def unprepared : State := { State.constructed with initialised := true, bus := some { devices := [] } }

/-- A device at 0x0100, with the answer it gives there. -/
def deviceAtPc (answer : Config.Answer) (s : State) : State :=
  { s with bus := some { devices := [{ base := 0x0100, size := 1 }] }, answers := [answer] }

/-- VX14, VX18: `Run(0)` does nothing, and `Run` before `Init` is outside its precondition. R246: `Run` before `Reset`
faults at the first poll. R235: a callback that calls `Reset` ends the `Run` in progress. -/
theorem test_run_preconditions :
    (returned (run 0 { start with nmiLatch := true }) fun t n => t.nmiLatch && t.pc == 0x0100 && n == 0) ∧
    faults (run 1 State.constructed) (.preconditionViolation .run) ∧
    faults (run 1 unprepared) (.unwrittenRead .nmiLatch) ∧
    faults (run 1 unprepared.triggerNmi) (.unwrittenRead .halted) ∧
    (returned (run 1 unprepared.resetCall) fun t n => t.pc == 0x0001 && n == 1) ∧
    faults (run 9 (deviceAtPc { answering 0x00 with call := some .reset } start)) (.preconditionViolation .reset) := by
  decide

/-- R200, R213: a `HALT` that a device answers, latching an NMI, ends the `Run` before the poll that would accept it. -/
theorem test_halt_ends_the_run :
    returned (run 9 (deviceAtPc { answering 0x76 with nmi := true } start)) fun t n =>
      n == 1 && t.halted && t.nmiLatch && t.pc == 0x0100 := by
  decide

/-- One step of a state goes on to a state that meets the condition. -/
def steps (s : State) (p : State → Bool) : Bool :=
  match step s with
  | .next t => p t
  | .fault _ => false
  | .refused _ => false

/-- A word placed where the next step fetches runs as the first instruction after reset: `HALT`, and `LD (IX+0),0`. -/
theorem test_with_fetch_word :
    (steps (State.reset.withFetchWord 8 0x76) fun t => t.halted && t.pc == 0x0000) ∧
    (steps (State.reset.withFetchWord 16 0xDD36) fun t => t.pc == 0x0004 && t.r == 0x02) := by
  decide

/-! ### Witnesses: for each statement with hypotheses, states and operands that meet them -/

theorem test_witness_DecodeUndoesEncode :
    ((Instr.ldIdxMemN .iy 0x80 0xFF).wf = true ∧ (Instr.ldIdxMemN .iy 0x80 0xFF).mayBefore []) ∧
    ((Instr.ignoredPrefix .ix).wf = true ∧ (Instr.ignoredPrefix .ix).mayBefore [0x00]) :=
  ⟨⟨rfl, trivial⟩, rfl, 0x00, [], rfl, rfl⟩

theorem test_witness_EveryByteSequenceDecodes :
    4 ≤ ([0xDD, 0xCB, 0x00, 0x06] : List Byte).length ∧
    decode [0x3E, 0xFF, 0xAA] = .ok (.ldRN .a 0xFF, [0xAA]) :=
  ⟨by decide, rfl⟩

theorem test_witness_LengthFromFirstTwoBytes :
    ignoredBy 0x00 = true ∧ ignoredBy 0x21 = false ∧ ignoredBy 0xCB = false ∧
    (0x3E : Byte) ≠ 0xCB ∧ (0x3E : Byte) ≠ 0xED ∧ (0x3E : Byte) ≠ 0xDD ∧ (0x3E : Byte) ≠ 0xFD := by
  decide

/-- An instruction that wraps past 0xFFFF. -/
def wrapping : State := placed 0xFFFE [0x3A, 0x34, 0x12] { start with pc := 0xFFFE }

theorem test_witness_StepRunsTheDecodedInstruction :
    wrapping.runsNext ∧ wrapping.plainFetch ∧
    decode (wrapping.bytesAt wrapping.pc 4) = .ok (.ldANnMem 0x1234, [0x00]) :=
  ⟨⟨⟨rfl, rfl, rfl⟩, rfl, rfl, rfl⟩, fun _ _ => rfl, rfl⟩

theorem test_witness_EveryStepKeepsTheInvariant : wrapping.Inv ∧ ∃ t, step wrapping = .next t :=
  ⟨⟨rfl, rfl, fun _ => rfl, rfl⟩, _, rfl⟩

/-- A core whose environment makes no forbidden host call in its next seven answers. -/
def calm : State := { start with answers := List.replicate 7 (answering 0xFF) }

theorem test_witness_EveryInitialisedStepCompletes :
    (calm.live ∧ calm.params.undocOps = .silicon ∧ calm.quiet 7) ∧
    (refusing.live ∧
      step (placed 0x0100 [0xCB, 0x30] refusing) = .refused (.undocumentedOpcode 0x0100 [0xCB, 0x30])) ∧
    step (deviceAtPc { answering 0x00 with call := some .init } start) = .fault (.preconditionViolation .init) :=
  ⟨⟨⟨rfl, rfl, rfl⟩, rfl, by decide, by decide⟩, ⟨⟨rfl, rfl, rfl⟩, rfl⟩, rfl⟩

theorem test_witness_RefusedExactlyWhenGatedAndRefusing :
    ((Instr.sllR8 (.reg .b)).undocumented = true ∧ refusing.params.undocOps = .refuse) ∧
    Executes .nop refusing ∧ Executes (.negDup 7) start :=
  ⟨⟨rfl, rfl⟩, .inl rfl, .inr rfl⟩

theorem test_witness_CellsAnInstructionDoesNotWriteAreKept :
    (∃ t, exec .ldir start = .next t) ∧ Cell.ix ∉ Instr.ldir.writes :=
  ⟨⟨_, rfl⟩, by decide⟩

theorem test_witness_BytesAnInstructionDoesNotStoreAreKept :
    (∃ t, exec .ldir start = .next t) ∧ (0x0001 : Word) ∉ Instr.ldir.stores start ∧
    (∃ t, exec (.pushRp2 .af) start = .next t) ∧ (0xFF00 : Word) ∉ (Instr.pushRp2 .af).stores start :=
  ⟨⟨_, rfl⟩, by decide, ⟨_, rfl⟩, by decide⟩

theorem test_witness_LinesAndBusAreKept :
    (∃ t, exec .ldir start = .next t) ∧ Instr.ldir.usesPort = false ∧ ∀ a, start.plainAt a :=
  ⟨⟨_, rfl⟩, rfl, fun _ => rfl⟩

theorem test_witness_OnlyExchangesUseTheAlternateBank :
    Instr.exDeHl ≠ .exAfAf ∧ Instr.exDeHl ≠ .exx ∧ ∃ t, exec .exDeHl start = .next t :=
  ⟨by decide, by decide, _, rfl⟩

theorem test_witness_OnlyLdARReadsTheRefreshRegister :
    Instr.ldAI ≠ .ldAR ∧ Instr.ldAI ≠ .ldRA ∧ ∃ t, exec .ldAI start = .next t :=
  ⟨by decide, by decide, _, rfl⟩

theorem test_witness_InstructionsDoNotReadTheLines : ∃ t, exec (.outNA 0xFF) start = .next t := ⟨_, rfl⟩

/-- An ignored prefix at 0xFFFF, whose look-ahead byte is at 0x0000. -/
def ignoring : State := placed 0xFFFF [0xDD, 0xDD] { start with pc := 0xFFFF }

theorem test_witness_IgnoredPrefixIsOneByteLong :
    ignoring.runsNext ∧ ignoring.plainFetch ∧ ignoring.byteAt ignoring.pc = Idx.ix.code ∧
    ignoredBy (ignoring.byteAt (ignoring.pc + 1)) = true :=
  ⟨⟨⟨rfl, rfl, rfl⟩, rfl, rfl, rfl⟩, fun _ _ => rfl, rfl, rfl⟩

/-- `ED 7F`, undefined. -/
def undefinedAtPc : State := placed 0x0100 [0xED, 0x7F] start

theorem test_witness_UndefinedEdIsATwoByteNoOp :
    undefinedAtPc.runsNext ∧ undefinedAtPc.plainFetch ∧ undefinedAtPc.byteAt undefinedAtPc.pc = 0xED ∧
    undefinedAtPc.byteAt (undefinedAtPc.pc + 1) = 0x7F ∧ undefinedEd 0x7F = true :=
  ⟨⟨⟨rfl, rfl, rfl⟩, rfl, rfl, rfl⟩, fun _ _ => rfl, rfl, rfl, rfl⟩

/-- R at 0xFF, about to wrap to 0x80. -/
def refreshing : State := placed 0x0100 [0x00] { start with r := 0xFF }

theorem test_witness_RefreshCounterKeepsItsTopBit :
    refreshing.runsNext ∧ refreshing.plainFetch ∧ refreshing.params.rModel = .count ∧
    decode (refreshing.bytesAt refreshing.pc 4) = .ok (.nop, [0x00, 0x00, 0x00]) ∧ Instr.nop ≠ .ldRA ∧
    ∃ t, step refreshing = .next t ∧ t.r = 0x80 :=
  ⟨⟨⟨rfl, rfl, rfl⟩, rfl, rfl, rfl⟩, fun _ _ => rfl, rfl, rfl, by decide, _, rfl, rfl⟩

/-- For ByteLoadsFillTheRegister, ByteStoresFillTheByte and DigitRotatesTurnThreeDigits. -/
theorem test_witness_ByteLoadsAndStores :
    start.plainAt start.hl ∧ start.plainAt (start.idx .ix + signExtend16 0x80) ∧ start.plainAt start.bc ∧
    start.plainAt start.de ∧ start.plainAt 0xFFFF :=
  ⟨rfl, rfl, rfl, rfl, rfl⟩

theorem test_witness_HalfLoadsKeepTheOtherHalf :
    start.params.undocOps = .silicon ∧ RegX.a ≠ .idxH ∧ RegX.a ≠ .idxL ∧ RegX.idxL ≠ .idxH ∧ RegX.idxH ≠ .idxL :=
  ⟨rfl, by decide, by decide, by decide, by decide⟩

/-- For WordLoadsFillThePair and WordStoresFillTheWord. -/
theorem test_witness_WordLoadsAndStores :
    start.params.undocOps = .silicon ∧ start.plainAt 0xFFFF ∧ start.plainAt (0xFFFF + 1) :=
  ⟨rfl, rfl, rfl⟩

/-- For PushAndPopMoveTheWord, PopAfterPushGivesTheWord and StackExchangesSwapTheTopWord: SP = 0x0001, about to wrap. -/
theorem test_witness_PushAndPop :
    let wrapped := { start with sp := 0x0001 }
    wrapped.plainAt (wrapped.sp - 1) ∧ wrapped.plainAt (wrapped.sp - 2) ∧ wrapped.plainAt wrapped.sp ∧
      wrapped.plainAt (wrapped.sp + 1) :=
  ⟨rfl, rfl, rfl, rfl⟩

/-- BC = 1: the last execution of a repeating instruction. -/
def last : State := { start with regs := { Bank.zero with c := 1 } }

/-- BC = 0: as many executions as there are addresses. -/
def most : State := start

/-- For BlockTransferMovesOneByte and BlockCompareComparesOneByte: the last execution, and one that repeats. -/
theorem test_witness_BlockTransferAndCompare :
    (¬(true = true ∧ last.bc ≠ 1)) ∧ (true = true ∧ most.bc ≠ 1) ∧ start.params.undocFlags = .silicon ∧
    most.plainAt most.hl ∧ most.plainAt most.de ∧ most.regs.a ≠ (0x01 : Byte) ∧ most.regs.a = most.byteAt most.hl :=
  ⟨fun h => h.2 rfl, ⟨rfl, by decide⟩, rfl, rfl, rfl, by decide, rfl⟩

/-- For AddWritesTheSum, SubtractWritesTheDifference and LogicWritesTheBitwiseResult. -/
theorem test_witness_AddSubtractAndLogic :
    Executes (AluForm.instr (.opnd .hlMem) .add) refusing ∧ Executes (AluForm.instr (.imm 0xFF) .adc) refusing ∧
    Executes (AluForm.instr (.idxMem .ix 0x80) .sub) refusing ∧ Executes (AluForm.instr (.half .iy .lo) .sbc) start ∧
    Executes (AluForm.instr (.half .ix .hi) .cp) start ∧ Executes (AluForm.instr (.opnd (.reg .a)) .and) refusing ∧
    Executes (AluForm.instr (.half .ix .lo) .xor) start ∧ Executes (AluForm.instr (.imm 0x00) .or) refusing :=
  ⟨.inl rfl, .inl rfl, .inl rfl, .inr rfl, .inr rfl, .inl rfl, .inr rfl, .inl rfl⟩

theorem test_witness_IncrementAndDecrementReplaceTheByte :
    (RmwForm.hlMem.inc = some (.incR8 .hlMem) ∧ Executes (.incR8 .hlMem) refusing) ∧
    ((RmwForm.half .ix .hi).inc = some (.incHalf .ix .hi) ∧ Executes (.incHalf .ix .hi) start) ∧
    ((RmwForm.idxMem .iy 0x80).dec = some (.decIdxMem .iy 0x80) ∧ Executes (.decIdxMem .iy 0x80) refusing) ∧
    ((RmwForm.half .iy .lo).dec = some (.decHalf .iy .lo) ∧ Executes (.decHalf .iy .lo) start) ∧ Half.hi ≠ .lo :=
  ⟨⟨rfl, .inl rfl⟩, ⟨rfl, .inr rfl⟩, ⟨rfl, .inl rfl⟩, ⟨rfl, .inr rfl⟩, by decide⟩

theorem test_witness_DecimalAdjustFollowsItsTable :
    start.regs.f.n = false ∧ ({ start with regs := { Bank.zero with f := Flags.ofByte 0xFF } } : State).regs.f.n = true :=
  ⟨rfl, rfl⟩

/-- A = 99 in packed decimal, C set. -/
def ninetyNine : State := { start with regs := { Bank.zero with a := 0x99, f := Flags.ofByte 0x01 } }

theorem test_witness_DecimalAdjustCorrectsDecimalSums :
    99 < 100 ∧ ninetyNine.regs.a = packedBcd 99 ∧ true = ninetyNine.regs.f.c ∧
    (∃ t u, exec (.adcAN (packedBcd 99)) ninetyNine = .next t ∧ exec .daa t = .next u ∧ u.regs.a = packedBcd 99) ∧
    (∃ t u, exec (.sbcAN (packedBcd 99)) ninetyNine = .next t ∧ exec .daa t = .next u ∧ u.regs.a = packedBcd 99) ∧
    (∃ t u, exec (.addAN (packedBcd 99)) ninetyNine = .next t ∧ exec .daa t = .next u ∧ u.regs.a = packedBcd 98) ∧
    (∃ t u, exec (.subN (packedBcd 99)) ninetyNine = .next t ∧ exec .daa t = .next u ∧ u.regs.a = packedBcd 0) :=
  ⟨by decide, rfl, rfl, ⟨_, _, rfl, rfl, rfl⟩, ⟨_, _, rfl, rfl, rfl⟩, ⟨_, _, rfl, rfl, rfl⟩, _, _, rfl, rfl, rfl⟩

theorem test_witness_AccumulatorAndFlagOperations :
    start.params.undocOps = .silicon ∧ start.params.undocFlags = .silicon :=
  ⟨rfl, rfl⟩

theorem test_witness_RotatesAndShiftsReplaceTheByte :
    (Instr.rla, Rotation.rl) ∈ [(Instr.rlca, Rotation.rlc), (.rrca, .rrc), (.rla, .rl), (.rra, .rr)] ∧
    (RmwForm.hlMem.rot .srl = some (.srlR8 .hlMem) ∧ Executes (.srlR8 .hlMem) refusing) ∧
    ((RmwForm.idxMem .ix 0x80).rot .sll = some (.sllIdxMem .ix 0x80) ∧ Executes (.sllIdxMem .ix 0x80) start) ∧
    ((RmwForm.idxCopy .iy 0x7F .h).rot .rr = some (.rrIdxCopy .iy 0x7F .h) ∧ Executes (.rrIdxCopy .iy 0x7F .h) start) :=
  ⟨by decide, ⟨rfl, .inl rfl⟩, ⟨rfl, .inr rfl⟩, rfl, .inr rfl⟩

theorem test_witness_BitTestsTheBit :
    (RmwForm.hlMem.bit 0 = some (.bitR8 0 .hlMem) ∧ Executes (.bitR8 0 .hlMem) refusing) ∧
    ((RmwForm.reg .a).bit 7 = some (.bitR8 7 (.reg .a)) ∧ Executes (.bitR8 7 (.reg .a)) refusing) ∧
    ((RmwForm.idxCopy .iy 0x80 .b).bit 7 = some (.bitIdxDup 7 .iy 0x80 .b) ∧ Executes (.bitIdxDup 7 .iy 0x80 .b) start) :=
  ⟨⟨rfl, .inl rfl⟩, ⟨rfl, .inl rfl⟩, rfl, .inr rfl⟩

theorem test_witness_ResetAndSetChangeOneBit :
    ((RmwForm.reg .l).res 7 = some (.resR8 7 (.reg .l)) ∧ Executes (.resR8 7 (.reg .l)) refusing) ∧
    ((RmwForm.idxCopy .ix 0xFF .e).set 0 = some (.setIdxCopy 0 .ix 0xFF .e) ∧ Executes (.setIdxCopy 0 .ix 0xFF .e) start) :=
  ⟨⟨rfl, .inl rfl⟩, rfl, .inr rfl⟩

theorem test_witness_CallsAndReturnsUseTheStack :
    start.cond .nz = true ∧ start.cond .z = false ∧ start.params.undocOps = .silicon :=
  ⟨rfl, rfl, rfl⟩

/-- For SinglePortTransfers and BlockPortTransfers: B = 1, the last execution, and B = 0, which repeats. -/
theorem test_witness_Ports :
    start.params.undocOps = .silicon ∧ ¬(true = true ∧ (0x01 : Byte) - 1 ≠ 0) ∧ (true = true ∧ (0x00 : Byte) - 1 ≠ 0) := by
  decide

theorem test_witness_SystemInstructions : start.params.undocOps = .silicon ∧ start.params.rModel = .count := ⟨rfl, rfl⟩

theorem test_witness_NmiIsAlwaysAccepted :
    let running := { start with nmiLatch := true, intLine := true, iff1 := true }
    let waiting := { start with nmiLatch := true, halted := true, sp := 0x0000 }
    (running.live ∧ running.nmiLatch = true ∧ running.plainAt (running.sp - 1) ∧ running.plainAt (running.sp - 2)) ∧
    (waiting.live ∧ waiting.nmiLatch = true ∧ waiting.halted = true) :=
  ⟨⟨⟨rfl, rfl, rfl⟩, rfl, rfl, rfl⟩, ⟨rfl, rfl, rfl⟩, rfl, rfl⟩

/-- The maskable line active and enabled, and a provider that answers 0xFF. -/
def requested (im : IntMode) (provider : Bool) : State :=
  { start with iff1 := true, intLine := true, im := im, provider := provider, answers := [answering 0xFF] }

theorem test_witness_MaskableInterruptIsAcceptedByMode :
    (∀ im provider, (requested im provider).live ∧ (requested im provider).nmiLatch = false ∧
      (requested im provider).intLine = true ∧ (requested im provider).iff1 = true ∧
      (requested im provider).plainAt ((requested im provider).sp - 1) ∧
      (requested im provider).plainAt ((requested im provider).sp - 2)) ∧
    ((requested .im0 true).im = .im0 ∧ (requested .im0 true).provider = true ∧
      ((requested .im0 true).answerTo .provider).declined = false ∧
      ((requested .im0 true).answerTo .provider).data &&& 0xC7 = 0xC7) ∧
    ((requested .im1 false).im = .im1 ∧ (requested .im1 false).provider = false) ∧
    ((requested .im1 true).im = .im1 ∧ (requested .im1 true).provider = true) ∧
    ((requested .im2 true).im = .im2 ∧ (requested .im2 true).provider = true ∧
      ((requested .im2 true).answerTo .provider).declined = false ∧
      (requested .im2 true).plainAt (joinBytes (requested .im2 true).i 0xFF) ∧
      (requested .im2 true).plainAt (joinBytes (requested .im2 true).i 0xFF + 1)) :=
  ⟨fun _ _ => ⟨⟨rfl, rfl, rfl⟩, rfl, rfl, rfl, rfl, rfl⟩, ⟨rfl, rfl, rfl, rfl⟩, ⟨rfl, rfl⟩, ⟨rfl, rfl⟩, rfl, rfl, rfl, rfl,
    rfl⟩

/-- An enabled request that the provider declines. -/
def declined (im : IntMode) : State := { requested im true with answers := [{ answering 0xFF with declined := true }] }

/-- One for each way a request is turned away; then a core that runs its next instruction, and one that stays halted. -/
theorem test_witness_InvalidSelectorAcceptsNothing :
    (start.nmiLatch = false ∧ start.turnsAway) ∧ State.turnsAway { start with intLine := true } ∧
    (requested .im0 false).turnsAway ∧ (declined .im0).turnsAway ∧
    State.turnsAway { requested .im0 true with answers := [answering 0xFE] } ∧
    (requested .im2 false).turnsAway ∧
    ((declined .im2).turnsAway ∧ (declined .im2).live ∧ ((declined .im2).answerTo .provider).line = none ∧
      ((declined .im2).answerTo .provider).call = none ∧ (declined .im2).halted = false ∧ (declined .im2).plainFetch ∧
      decode ((declined .im2).bytesAt (declined .im2).pc 4) = .ok (.nop, [0x00, 0x00, 0x00]) ∧
      (steps (declined .im2) fun t => t.pc == 0x0101 && t.intLine)) ∧
    ((returned (run 3 { declined .im2 with halted := true }) fun t n => n == 0 && t.halted && t.pc == 0x0100)) :=
  ⟨⟨rfl, .inl rfl⟩, .inr (.inl rfl), .inr (.inr (.inl ⟨rfl, .inl rfl⟩)), .inr (.inr (.inl ⟨rfl, .inr (.inl rfl)⟩)),
    .inr (.inr (.inl ⟨rfl, .inr (.inr (by decide))⟩)), .inr (.inr (.inr ⟨rfl, .inl rfl⟩)),
    ⟨.inr (.inr (.inr ⟨rfl, .inr rfl⟩)), ⟨rfl, rfl, rfl⟩, rfl, rfl, rfl, fun _ _ => rfl, rfl, rfl⟩, rfl⟩

theorem test_witness_HaltedCoreWaits :
    let waiting := { start with halted := true, intLine := true }
    waiting.live ∧ waiting.halted = true ∧ waiting.nmiLatch = false ∧ (waiting.intLine && waiting.iff1) = false :=
  ⟨⟨rfl, rfl, rfl⟩, rfl, rfl, rfl⟩

theorem test_witness_EnableTakesEffectAtTheNextPoll :
    let s := { start with intLine := true, im := .im1 }
    s.live ∧ s.nmiLatch = false ∧ s.intLine = true ∧ s.im = .im1 ∧ s.halted = false ∧
      s.plainAt (s.sp - 1) ∧ s.plainAt (s.sp - 2) ∧ s.provider = false :=
  ⟨⟨rfl, rfl, rfl⟩, rfl, rfl, rfl, rfl, rfl, rfl, rfl⟩

theorem test_witness_ReturnUndoesAnNmi :
    let s := { start with nmiLatch := true, iff1 := true, halted := true, sp := 0x0001 }
    s.live ∧ s.nmiLatch = true ∧ s.plainAt (s.sp - 1) ∧ s.plainAt (s.sp - 2) :=
  ⟨⟨rfl, rfl, rfl⟩, rfl, rfl, rfl⟩

/-- `HALT` as the first of at most five, from plain memory and from a device; and `Run(1)`, then more, over `NOP`s. -/
theorem test_witness_RunCountsItsSteps :
    let halting := placed 0x0100 [0x76] start
    let device := deviceAtPc { answering 0x76 with nmi := true } start
    State.constructed.initialised = false ∧ start.initialised = true ∧
    (∃ t, run 5 halting = .next (t, 1) ∧ 1 < (5 : BitVec 32).toNat) ∧
    (halting.runsNext ∧ halting.opcodeAtPc 0x76) ∧
    (device.runsNext ∧ device.opcodeAtPc 0x76 ∧ device.isDevice device.pc = true) ∧
    (∃ t, run 1 start = .next (t, (1 : BitVec 32).toNat) ∧ t.halted = false ∧
      (1 : BitVec 32).toNat + (5 : BitVec 32).toNat < 2 ^ 32) :=
  ⟨rfl, rfl, ⟨_, rfl, by decide⟩, ⟨⟨⟨rfl, rfl, rfl⟩, rfl, rfl, rfl⟩, .inl ⟨rfl, rfl⟩⟩,
    ⟨⟨⟨rfl, rfl, rfl⟩, rfl, rfl, rfl⟩, .inr ⟨rfl, rfl, rfl⟩, rfl⟩, _, rfl, rfl, by decide⟩

theorem test_witness_EveryRunReturns :
    calm.live ∧ calm.params.undocOps = .silicon ∧ calm.Inv ∧ calm.quiet (7 * (1 : BitVec 32).toNat) ∧
    ∃ t, run 1 calm = .next (t, 1) :=
  ⟨⟨rfl, rfl, rfl⟩, rfl, ⟨rfl, rfl, fun _ => rfl, rfl⟩, ⟨by decide, by decide⟩, _, rfl⟩

theorem test_witness_LoadedContextIsTheSavedOne :
    let s := { start with halted := true, intLine := true, regs := { Bank.zero with a := 0xFF } }
    start.initialised = s.initialised ∧ start.bus = s.bus ∧ start.provider = s.provider ∧
      start.violation = s.violation ∧ start.mem = s.mem ∧ start.params = s.params ∧ start.answers = s.answers ∧
      start.trace = s.trace ∧ start.draws = s.draws :=
  ⟨rfl, rfl, rfl, rfl, rfl, rfl, rfl, rfl, rfl⟩

theorem test_witness_HostCallsKeepTheirPreconditions :
    let device := deviceAtPc { answering 0x76 with call := some .run } start
    let asking := { requested .im2 true with answers := [{ answering 0xFF with call := some .saveContext }] }
    (start.initialised = true ∧ State.constructed.initialised = false) ∧
    (device.runsNext ∧ device.isDevice device.pc = true ∧ (device.answerTo (.memRead device.pc)).call = some .run) ∧
    (asking.live ∧ asking.nmiLatch = false ∧ asking.intLine = true ∧ asking.iff1 = true ∧ asking.im ≠ .im1 ∧
      asking.provider = true ∧ (asking.answerTo .provider).call = some .saveContext) ∧
    (unprepared.initialised = true ∧ unprepared.controlWritten = false) :=
  ⟨⟨rfl, rfl⟩, ⟨⟨⟨rfl, rfl, rfl⟩, rfl, rfl, rfl⟩, rfl, rfl⟩,
    ⟨⟨rfl, rfl, rfl⟩, rfl, rfl, rfl, by decide, rfl, rfl⟩, rfl, rfl⟩

end Sys2Proof.Tests
end

section
/-!
PROOFS. What an instruction does outside the register context is a sequence of accesses: memory reads, memory writes at
the addresses `Instr.stores` lists, and port accesses if `Instr.usesPort` says so (20_memory.md rules R37, R44). The
theorem `exec_accesses` says so once, over every instruction; the frames over memory and over the administrative state
(00_scope.md rule R10, 10_state.md rule R32) are inductions over that sequence.
-/

namespace Sys2Proof.Machine

open Sys2Proof

/-! ### The state outside the register context -/

/-- The state with every cell of the register context blanked (10_state.md rules R16 to R29): what is left is memory, the
Bus, the lines, the environment, the administrative state and the model's own fields. -/
def State.outside (s : State) : State :=
  { s with
    regs := Bank.zero, alt := Bank.zero, ix := 0, iy := 0, sp := 0, pc := 0, i := 0, r := 0
    iff1 := false, iff2 := false, im := .im0, halted := false }

/-- States that agree outside the register context agree in each field there. -/
theorem State.fields_of_outside_eq {s t : State} (h : t.outside = s.outside) :
    t.nmiLatch = s.nmiLatch ∧ t.intLine = s.intLine ∧ t.initialised = s.initialised ∧ t.bus = s.bus ∧
    t.provider = s.provider ∧ t.controlWritten = s.controlWritten ∧ t.violation = s.violation ∧ t.mem = s.mem ∧
    t.params = s.params ∧ t.answers = s.answers ∧ t.trace = s.trace ∧ t.draws = s.draws := by
  simpa [State.outside] using h

@[simp] theorem State.outside_setReg (s : State) (r : Reg8) (v : Byte) : (s.setReg r v).outside = s.outside := rfl

@[simp] theorem State.outside_setBc (s : State) (v : Word) : (s.setBc v).outside = s.outside := rfl

@[simp] theorem State.outside_setDe (s : State) (v : Word) : (s.setDe v).outside = s.outside := rfl

@[simp] theorem State.outside_setHl (s : State) (v : Word) : (s.setHl v).outside = s.outside := rfl

@[simp] theorem State.outside_putFlags (s : State) (always undefined f : Flags) :
    (s.putFlags always undefined f).outside = s.outside := rfl

@[simp] theorem State.outside_setPair (s : State) (p : Rp) (v : Word) : (s.setPair p v).outside = s.outside := by
  cases p <;> rfl

@[simp] theorem State.outside_setPair2 (s : State) (p : Rp2) (v : Word) : (s.setPair2 p v).outside = s.outside := by
  cases p <;> rfl

@[simp] theorem State.outside_setIdx (s : State) (i : Idx) (v : Word) : (s.setIdx i v).outside = s.outside := by
  cases i <;> rfl

@[simp] theorem State.outside_setHalf (s : State) (i : Idx) (h : Half) (v : Byte) :
    (s.setHalf i h v).outside = s.outside := by
  cases h <;> exact State.outside_setIdx s i _

theorem State.outside_modifyHalf (s : State) (change : Flags → Byte → Byte × Flags) (i : Idx) (h : Half) :
    (s.modifyHalf change i h).outside = s.outside :=
  State.outside_setHalf s i h _

@[simp] theorem State.outside_setRegX (s : State) (i : Idx) (x : RegX) (v : Byte) :
    (s.setRegX i x v).outside = s.outside := by
  cases x
  case idxH | idxL => exact State.outside_setHalf s i _ v
  all_goals rfl

@[simp] theorem State.outside_repeatIf (s : State) (again : Bool) : (s.repeatIf again).outside = s.outside := by
  cases again <;> rfl

theorem State.outside_ite {c : Prop} [Decidable c] {s t u : State} (ht : t.outside = s.outside)
    (hu : u.outside = s.outside) : (if c then t else u).outside = s.outside := by
  split <;> assumption

/-! ### Sequences of accesses -/

/-- `t` comes from `s` by changes of the register context, memory reads, memory writes at addresses of `stored`, and, if
`port` allows it, port accesses. -/
inductive Accesses (stored : List Word) (port : Bool) (s : State) : State → Prop
  | refl : Accesses stored port s s
  | registers {t u : State} (h : Accesses stored port s t) (same : u.outside = t.outside) : Accesses stored port s u
  | read {t : State} (h : Accesses stored port s t) (a : Word) : Accesses stored port s (t.memRead a).2
  | write {t : State} (h : Accesses stored port s t) (a : Word) (v : Byte) (mem : a ∈ stored) :
      Accesses stored port s (t.memWrite a v)
  | portRead {t : State} (h : Accesses stored port s t) (a : Word) (uses : port = true) :
      Accesses stored port s (t.ioRead a).2
  | portWrite {t : State} (h : Accesses stored port s t) (a : Word) (v : Byte) (uses : port = true) :
      Accesses stored port s (t.ioWrite a v)

/-! ### The shared operations as accesses -/

section
variable {stored : List Word} {port : Bool} {s t : State}

theorem Accesses.read16 (h : Accesses stored port s t) (a : Word) : Accesses stored port s (t.memRead16 a).2 :=
  (h.read a).read (a + 1)

theorem Accesses.write16 (h : Accesses stored port s t) (a v : Word) (lo : a ∈ stored) (hi : a + 1 ∈ stored) :
    Accesses stored port s (t.memWrite16 a v) :=
  (h.write a _ lo).write (a + 1) _ hi

theorem Accesses.setSp (h : Accesses stored port s t) (v : Word) : Accesses stored port s (t.setSp v) :=
  h.registers rfl

theorem Accesses.pop (h : Accesses stored port s t) : Accesses stored port s t.pop16.2 :=
  (((h.read t.sp).setSp _).read _).setSp _

theorem Accesses.push (v : Word) (hi : s.sp - 1 ∈ stored) (lo : s.sp - 2 ∈ stored) :
    Accesses stored port s (s.push16 v) := by
  have between : ((s.setSp (s.sp - 1)).memWrite (s.sp - 1) (hiByte v)).sp = s.sp - 1 := by simp
  have first : Accesses stored port s ((s.setSp (s.sp - 1)).memWrite (s.sp - 1) (hiByte v)) :=
    (Accesses.refl.setSp (s.sp - 1)).write _ _ hi
  exact (first.setSp _).write _ _ (by rwa [between, word_sub_two])

theorem Accesses.call (target : Word) (hi : s.sp - 1 ∈ stored) (lo : s.sp - 2 ∈ stored) :
    Accesses stored port s (s.call target) :=
  (Accesses.push s.pc hi lo).registers rfl

theorem Accesses.readOpnd (o : Opnd8) : Accesses stored port s (s.readOpnd o).2 := by
  cases o
  case reg => exact .refl
  case hlMem => exact Accesses.refl.read _

/-- The operand is written at the address it was read at. -/
theorem Accesses.rewriteOpnd (o : Opnd8) (v : Byte) (hs : o.address s ⊆ stored) :
    Accesses stored port s ((s.readOpnd o).2.writeOpnd o v) := by
  cases o
  case reg => exact Accesses.refl.registers rfl
  case hlMem =>
    have same : (s.memRead s.hl).2.hl = s.hl := by simp [State.hl]
    exact (Accesses.refl.read s.hl).write _ v (same ▸ hs (.head _))

theorem Accesses.rewrite (a : Word) (v : Byte) (mem : a ∈ stored) :
    Accesses stored port s ((s.memRead a).2.memWrite a v) :=
  (Accesses.refl.read a).write a v mem

theorem Accesses.modifyMem (change : Flags → Byte → Byte × Flags) (a : Word) (mem : a ∈ stored) :
    Accesses stored port s (s.modifyMem change a) :=
  (Accesses.rewrite a _ mem).registers rfl

theorem Accesses.modifyOpnd (change : Flags → Byte → Byte × Flags) (o : Opnd8) (hs : o.address s ⊆ stored) :
    Accesses stored port s (s.modifyOpnd change o) := by
  cases o
  case reg => exact Accesses.refl.registers rfl
  case hlMem => exact Accesses.modifyMem change s.hl (hs (.head _))

theorem Accesses.exchangeTop (v : Word) (lo : s.sp ∈ stored) (hi : s.sp + 1 ∈ stored) :
    Accesses stored port s (s.exchangeTop v).2 :=
  ((Accesses.refl.read16 s.sp).write _ _ hi).write _ _ lo

theorem Accesses.ldStep (delta : Word) (repeats : Bool) (mem : s.de ∈ stored) :
    Accesses stored port s (s.ldStep delta repeats) :=
  ((Accesses.refl.read s.hl).write s.de (s.memRead s.hl).1 mem).registers (by simp [State.ldStep])

theorem Accesses.cpStep (delta : Word) (repeats : Bool) : Accesses stored port s (s.cpStep delta repeats) :=
  (Accesses.refl.read s.hl).registers (by simp [State.cpStep])

theorem Accesses.rotateDigit (mem acc : Byte → Byte → Byte) (hs : s.hl ∈ stored) :
    Accesses stored port s (s.rotateDigit mem acc) :=
  (Accesses.rewrite s.hl _ hs).registers rfl

theorem Accesses.inC (uses : port = true) : Accesses stored port s s.inC.2 :=
  (Accesses.refl.portRead s.bc uses).registers rfl

theorem Accesses.inStep (delta : Word) (deltaC : Byte) (repeats : Bool) (mem : s.hl ∈ stored) (uses : port = true) :
    Accesses stored port s (s.inStep delta deltaC repeats) :=
  ((Accesses.refl.portRead s.bc uses).write s.hl (s.ioRead s.bc).1 mem).registers
    (by simp [State.inStep, State.ioBlockEnd])

theorem Accesses.outStep (delta : Word) (repeats : Bool) (uses : port = true) :
    Accesses stored port s (s.outStep delta repeats) := by
  have counted : Accesses stored port s ((s.memRead s.hl).2.setReg .b (s.regs.b - 1)) :=
    (Accesses.refl.read s.hl).registers rfl
  have sent := counted.portWrite ((s.memRead s.hl).2.setReg .b (s.regs.b - 1)).bc (s.memRead s.hl).1 uses
  exact sent.registers (by simp [State.outStep, State.ioBlockEnd])

end

/-! ### Every instruction is a sequence of accesses -/

/-- Where the outcome is a next state, it comes by such a sequence. -/
def Performs (stored : List Word) (port : Bool) (s : State) (o : Host.Outcome State Fault Refusal) : Prop :=
  ∀ t, o = .next t → Accesses stored port s t

section
variable {stored : List Word} {port : Bool} {s t : State}

theorem Performs.next (h : Accesses stored port s t) : Performs stored port s (.next t) := by
  rintro _ ⟨⟩
  exact h

theorem Performs.undocumented {i : Instr} (h : Accesses stored port s t) :
    Performs stored port s (s.undocumented i t) := by
  unfold State.undocumented
  split
  · exact .next h
  · rintro _ ⟨⟩

end

/-- What an instruction does outside the register context: reads, writes at the addresses it stores to, and port accesses
only if it is a port instruction. -/
theorem exec_performs (i : Instr) (s : State) : Performs (i.stores s) i.usesPort s (exec i s) := by
  cases i with
  -- Register context only.
  | nop | edUndefined | ignoredPrefix | exAfAf | exx | exDeHl | jr | jpHl | jpNn | jpIdx | ldRN | ldRR | ldSpHl | ldSpIdx
  | addHlRp | adcHlRp | sbcHlRp | rlca | rrca | rla | rra | daa | cpl | scf | ccf | neg | halt | di | ei | im0 | im1 | im2
  | ldIA | ldRA | ldAI | ldAR | addAN | adcAN | subN | sbcAN | andN | xorN | orN | cpN =>
    exact .next (.registers .refl rfl)
  | negDup | im0Dup | im1Dup | im2Dup | im01 | addAHalf | adcAHalf | subHalf | sbcAHalf | andHalf | xorHalf | orHalf
  | cpHalf =>
    exact .undocumented (.registers .refl rfl)
  | jrCc | jpCcNn | djnz => exact .next (.registers .refl (State.outside_ite rfl rfl))
  | ldRpNn | incRp | decRp => exact .next (.registers .refl (State.outside_setPair _ _ _))
  | ldIdxNn | incIdx | decIdx | addIdxRp => exact .next (.registers .refl (State.outside_setIdx _ _ _))
  | ldXX => exact .undocumented (.registers .refl (State.outside_setRegX _ _ _ _))
  | ldHalfN => exact .undocumented (.registers .refl (State.outside_setHalf _ _ _ _))
  | incHalf | decHalf => exact .undocumented (.registers .refl (State.outside_modifyHalf _ _ _ _))
  -- Reads.
  | ldRHlMem | ldRIdxMem | ldARpMem | ldANnMem | addAIdxMem | adcAIdxMem | subIdxMem | sbcAIdxMem | andIdxMem | xorIdxMem
  | orIdxMem | cpIdxMem | bitIdxMem =>
    exact .next (.registers (.read .refl _) rfl)
  | bitIdxDup => exact .undocumented (.registers (.read .refl _) rfl)
  | addAR8 o | adcAR8 o | subR8 o | sbcAR8 o | andR8 o | xorR8 o | orR8 o | cpR8 o =>
    exact .next (.registers (.readOpnd o) rfl)
  | bitR8 b o =>
    cases o
    case reg => exact .next (.registers .refl rfl)
    case hlMem => exact .next (.registers (.read .refl _) rfl)
  | cpi | cpd | cpir | cpdr => exact .next (.cpStep _ _)
  | ldHlNnMem | ldRpNnMem => exact .next (.registers (.read16 .refl _) (State.outside_setPair _ _ _))
  | ldHlNnMemEd => exact .undocumented (.registers (.read16 .refl _) (State.outside_setPair _ _ _))
  | ldIdxNnMem => exact .next (.registers (.read16 .refl _) (State.outside_setIdx _ _ _))
  | popRp2 => exact .next (.registers (.pop .refl) (State.outside_setPair2 _ _ _))
  | popIdx => exact .next (.registers (.pop .refl) (State.outside_setIdx _ _ _))
  | ret | retn | reti => exact .next (.registers (.pop .refl) rfl)
  | retnDup => exact .undocumented (.registers (.pop .refl) rfl)
  | retCc cc =>
    refine .next ?_
    split
    · exact .registers (.pop .refl) rfl
    · exact .refl
  -- Writes.
  | ldRpMemA | ldNnMemA | ldHlMemN | ldHlMemR | ldIdxMemN | ldIdxMemR => exact .next (.write .refl _ _ (.head _))
  | ldNnMemHl | ldNnMemRp | ldNnMemIdx => exact .next (.write16 .refl _ _ (.head _) (.tail _ (.head _)))
  | ldNnMemHlEd => exact .undocumented (.write16 .refl _ _ (.head _) (.tail _ (.head _)))
  | pushRp2 | pushIdx => exact .next (.push _ (.head _) (.tail _ (.head _)))
  | callNn | rst => exact .next (.call _ (.head _) (.tail _ (.head _)))
  | callCcNn cc nn =>
    refine .next ?_
    split
    · next taken =>
      have listed : (Instr.callCcNn cc nn).stores s = [s.sp - 1, s.sp - 2] := if_pos taken
      rw [listed]
      exact .call _ (.head _) (.tail _ (.head _))
    · exact .refl
  -- A read, then a write.
  | incIdxMem | decIdxMem => exact .next (.modifyMem _ _ (.head _))
  | incR8 o | decR8 o => exact .next (.modifyOpnd _ o (List.Subset.refl _))
  | rlcR8 o | rrcR8 o | rlR8 o | rrR8 o | slaR8 o | sraR8 o | srlR8 o =>
    exact .next (.registers (.rewriteOpnd o _ (List.Subset.refl _)) rfl)
  | sllR8 o => exact .undocumented (.registers (.rewriteOpnd o _ (List.Subset.refl _)) rfl)
  | resR8 _ o | setR8 _ o => exact .next (.rewriteOpnd o _ (List.Subset.refl _))
  | rlcIdxMem | rrcIdxMem | rlIdxMem | rrIdxMem | slaIdxMem | sraIdxMem | srlIdxMem | resIdxMem | setIdxMem =>
    exact .next (.registers (.rewrite _ _ (.head _)) rfl)
  | sllIdxMem | rlcIdxCopy | rrcIdxCopy | rlIdxCopy | rrIdxCopy | slaIdxCopy | sraIdxCopy | sllIdxCopy | srlIdxCopy
  | resIdxCopy | setIdxCopy =>
    exact .undocumented (.registers (.rewrite _ _ (.head _)) rfl)
  | rrd | rld => exact .next (.rotateDigit _ _ (.head _))
  | exSpHl => exact .next (.registers (.exchangeTop _ (.head _) (.tail _ (.head _))) rfl)
  | exSpIdx => exact .next (.registers (.exchangeTop _ (.head _) (.tail _ (.head _))) (State.outside_setIdx _ _ _))
  | ldi | ldd | ldir | lddr => exact .next (.ldStep _ _ (.head _))
  -- Ports.
  | inAN => exact .next (.registers (.portRead .refl _ rfl) rfl)
  | inRC => exact .next (.registers (.inC rfl) rfl)
  | inFC => exact .undocumented (.inC rfl)
  | outNA | outCR => exact .next (.portWrite .refl _ _ rfl)
  | outC0 => exact .undocumented (.portWrite .refl _ _ rfl)
  | ini | ind | inir | indr => exact .next (.inStep _ _ _ (.head _) rfl)
  | outi | outd | otir | otdr => exact .next (.outStep _ _ rfl)

theorem exec_accesses {i : Instr} {s t : State} (h : exec i s = .next t) : Accesses (i.stores s) i.usesPort s t :=
  exec_performs i s t h

/-! ### What a sequence of accesses leaves unchanged -/

section
variable {stored : List Word} {port : Bool} {s t : State}

/-- A byte at no stored address. -/
theorem Accesses.byteAt_eq (h : Accesses stored port s t) {a : Word} (ha : a ∉ stored) : t.byteAt a = s.byteAt a := by
  induction h with
  | refl => rfl
  | registers _ same ih => exact (congrArg (fun u : State => u.byteAt a) same).trans ih
  | read _ b ih => simpa [State.byteAt] using ih
  | write _ b v mem ih =>
    have ne : a ≠ b := fun e => ha (e ▸ mem)
    exact (State.read_memWrite_other _ v ne).trans ih
  | portRead _ _ _ ih => simpa [State.byteAt] using ih
  | portWrite _ _ _ _ ih => simpa [State.byteAt] using ih

/-- The fields no access writes. -/
theorem Accesses.fields_eq (h : Accesses stored port s t) :
    t.initialised = s.initialised ∧ t.bus = s.bus ∧ t.provider = s.provider ∧ t.controlWritten = s.controlWritten ∧
    t.params = s.params ∧ t.draws = s.draws := by
  induction h with
  | refl => exact ⟨rfl, rfl, rfl, rfl, rfl, rfl⟩
  | registers _ same ih =>
    obtain ⟨-, -, hinit, hbus, hprovider, hwritten, -, -, hparams, -, -, hdraws⟩ := State.fields_of_outside_eq same
    simpa [hinit, hbus, hprovider, hwritten, hparams, hdraws] using ih
  | read _ _ ih => simpa using ih
  | write _ _ _ _ ih => simpa using ih
  | portRead _ _ _ ih => simpa using ih
  | portWrite _ _ _ _ ih => simpa using ih

/-- The accesses recorded before stay recorded (20_memory.md rule R37). -/
theorem Accesses.trace_suffix (h : Accesses stored port s t) : s.trace <:+ t.trace := by
  induction h with
  | refl => exact List.suffix_rfl
  | registers _ same ih =>
    obtain ⟨-, -, -, -, -, -, -, -, -, -, htrace, -⟩ := State.fields_of_outside_eq same
    exact htrace ▸ ih
  | read _ _ ih => simpa using ih.trans (List.suffix_cons _ _)
  | write _ _ _ _ ih => simpa using ih.trans (List.suffix_cons _ _)
  | portRead _ _ _ ih => simpa using ih.trans (List.suffix_cons _ _)
  | portWrite _ _ _ _ ih => simpa using ih.trans (List.suffix_cons _ _)

/-- Plain memory answers by itself: with no device and no port the environment is asked nothing (log 5). -/
theorem Accesses.environment_eq (h : Accesses stored port s t) (noPort : port = false) (plain : ∀ a, s.plainAt a) :
    LinesKept s t ∧ t.answers = s.answers := by
  induction h with
  | refl => exact ⟨⟨rfl, rfl, rfl⟩, rfl⟩
  | registers _ same ih =>
    obtain ⟨hnmi, hline, -, -, -, -, hviolation, -, -, hanswers, -, -⟩ := State.fields_of_outside_eq same
    simpa [LinesKept, hnmi, hline, hviolation, hanswers] using ih
  | read h a ih =>
    obtain ⟨-, hbus, -⟩ := h.fields_eq
    have plainThere := (State.plainAt_congr hbus a).2 (plain a)
    simpa [LinesKept, State.memRead_quiet _ plainThere] using ih
  | write h a v _ ih =>
    obtain ⟨-, hbus, -⟩ := h.fields_eq
    have plainThere := (State.plainAt_congr hbus a).2 (plain a)
    simpa [LinesKept, State.memWrite_quiet _ v plainThere] using ih
  | portRead _ _ uses => simp [noPort] at uses
  | portWrite _ _ _ uses => simp [noPort] at uses

end

/-! ### The frames -/

/-- Settles O12: an instruction's memory writes are all at the addresses `Instr.stores` lists. -/
theorem bytesAnInstructionDoesNotStoreAreKept : Obligations.BytesAnInstructionDoesNotStoreAreKept := by
  intro i s t a h ha
  exact (exec_accesses h).byteAt_eq ha

/-- Settles O13, over the same sequence of accesses. -/
theorem linesAndBusAreKept : Obligations.LinesAndBusAreKept := by
  intro i s t h
  have accesses := exec_accesses h
  obtain ⟨hinit, hbus, hprovider, hwritten, hparams, hdraws⟩ := accesses.fields_eq
  obtain ⟨events, htrace⟩ := accesses.trace_suffix
  exact ⟨hinit, hbus, hprovider, hwritten, hparams, hdraws, ⟨events, htrace.symm⟩, accesses.environment_eq⟩

/-! ### The stack -/

/-- What a pop after a push reads, where the two bytes below SP are plain memory. -/
theorem State.pop16_push16 (s : State) (v : Word) (hi : s.plainAt (s.sp - 1)) (lo : s.plainAt (s.sp - 2)) :
    (s.push16 v).pop16.1 = v := by
  obtain ⟨hsp, -, hiStored, loStored⟩ := State.push16_pushed s v
  obtain ⟨-, -, loRead, hiRead⟩ := State.pop16_popped (s.push16 v)
  have hbus : (s.push16 v).bus = s.bus := by simp
  have next : s.sp - 2 + 1 = s.sp - 1 := by bv_omega
  rw [hsp, State.plainAt_congr hbus] at loRead
  rw [hsp, next, State.plainAt_congr hbus] at hiRead
  rw [← joinBytes_hiByte_loByte (s.push16 v).pop16.1, hiRead hi, hiStored hi, loRead lo, loStored lo,
    joinBytes_hiByte_loByte]

/-- Settles O28: the pop reads back the two bytes the push stored. -/
theorem popAfterPushGivesTheWord : Obligations.PopAfterPushGivesTheWord := by
  intro s p q hi lo
  refine ⟨s.push16 (s.pair2 p), _, rfl, rfl, ?_, ?_, fun a hhi hlo => ?_⟩
  · rw [State.pair2_setPair2, State.pop16_push16 s _ hi lo]
  · simp
  · simpa [State.byteAt] using State.read_push16_other s (s.pair2 p) hhi hlo

/-- Settles O27: both forms of each are one `push16` or one `pop16`. -/
theorem pushAndPopMoveTheWord : Obligations.PushAndPopMoveTheWord := by
  intro s
  refine ⟨fun p => ⟨_, rfl, State.push16_pushed s _⟩, fun i => ⟨_, rfl, State.push16_pushed s _⟩,
    fun p => ⟨_, rfl, ?_⟩, fun i => ⟨_, rfl, ?_⟩⟩
  · rw [State.pair2_setPair2]
    exact s.pop16_popped.congr (by simp) (by simp)
  · rw [State.idx_setIdx]
    exact s.pop16_popped.congr (by simp) (by simp)

end Sys2Proof.Machine
end

section
/-!
PROOFS. The 16-bit accesses (20_memory.md rules R38, R39): the word loads and stores, the exchange with the top of the
stack, and the push of an acceptance (60_exceptions.md rules R215, R216).
-/

namespace Sys2Proof.Machine

/-! ### The word loads and stores -/

/-- Every load of a pair from memory, `ED 6B` and the plain form alike, is this one operation. -/
theorem State.loadPair_loaded (s : State) (p : Rp) (a : Word) :
    Loaded16 a ((s.loadPair p a).pair p) s (s.loadPair p a) := by
  unfold State.loadPair
  rw [State.pair_setPair]
  exact (s.memRead16_loaded a).congr (by simp)

/-- Settles O25: a load from memory is one `memRead16`, and any other writes its destination alone. -/
theorem wordLoadsFillThePair : Obligations.WordLoadsFillThePair := by
  intro s
  refine ⟨fun p nn => ⟨_, rfl, State.pair_setPair s p nn, ?_⟩, fun i nn => ⟨_, rfl, State.idx_setIdx s i nn, ?_⟩,
    fun nn => ⟨_, rfl, s.loadPair_loaded .hl nn⟩,
    fun nn silicon => ⟨_, State.undocumented_silicon _ _ silicon, s.loadPair_loaded .hl nn⟩,
    fun p nn => ⟨_, rfl, s.loadPair_loaded p nn⟩, fun i nn => ⟨_, rfl, ?_⟩, ⟨_, rfl, rfl, rfl⟩,
    fun i => ⟨_, rfl, rfl, rfl⟩⟩
  · simp
  · simp
  · rw [State.idx_setIdx]
    exact (s.memRead16_loaded nn).congr (by simp)

/-- Settles O26: every form is one `memWrite16`. -/
theorem wordStoresFillTheWord : Obligations.WordStoresFillTheWord := by
  intro s nn
  exact ⟨⟨_, rfl, s.memWrite16_stored nn _⟩,
    fun silicon => ⟨_, State.undocumented_silicon _ _ silicon, s.memWrite16_stored nn _⟩,
    fun p => ⟨_, rfl, s.memWrite16_stored nn _⟩, fun i => ⟨_, rfl, s.memWrite16_stored nn _⟩⟩

/-! ### The exchange with the top of the stack -/

/-- The word `new` put at SP for the word `old`: both bytes read, the low one first, then both written, the high one
first (R38, R105). -/
def TopExchanged (new old : Word) (s t : State) : Prop :=
  t.trace = .memWrite s.sp (loByte new) :: .memWrite (s.sp + 1) (hiByte new) :: .memRead (s.sp + 1) (hiByte old) ::
    .memRead s.sp (loByte old) :: s.trace ∧
  (s.plainAt s.sp → loByte old = s.byteAt s.sp ∧ t.byteAt s.sp = loByte new) ∧
  (s.plainAt (s.sp + 1) → hiByte old = s.byteAt (s.sp + 1) ∧ t.byteAt (s.sp + 1) = hiByte new)

theorem TopExchanged.congr {new old : Word} {s t t' : State} (h : TopExchanged new old s t)
    (trace : t'.trace = t.trace) (mem : t'.mem = t.mem) : TopExchanged new old s t' := by
  have bytes (a : Word) : t'.byteAt a = t.byteAt a := congrArg (Memory.read · a.toNat) mem
  simpa only [TopExchanged, trace, bytes] using h

theorem State.exchangeTop_sp (s : State) (v : Word) : (s.exchangeTop v).2.sp = s.sp := by
  simp [State.exchangeTop]

/-- The second write is at another address, so it leaves the byte of the first. -/
theorem State.exchangeTop_exchanged (s : State) (v : Word) :
    TopExchanged v (s.exchangeTop v).1 s (s.exchangeTop v).2 := by
  obtain ⟨readTrace, loRead, hiRead⟩ := s.memRead16_loaded s.sp
  obtain ⟨hiTrace, hiStored⟩ := (s.memRead16 s.sp).2.memWrite_stored (s.sp + 1) (hiByte v)
  obtain ⟨loTrace, loStored⟩ := ((s.memRead16 s.sp).2.memWrite (s.sp + 1) (hiByte v)).memWrite_stored s.sp (loByte v)
  refine ⟨?_, fun plain => ⟨loRead plain, loStored ?_⟩, fun plain => ⟨hiRead plain, ?_⟩⟩
  · exact loTrace.trans (by rw [hiTrace, readTrace]; rfl)
  · exact (State.plainAt_congr (by simp) _).2 plain
  · calc (s.exchangeTop v).2.byteAt (s.sp + 1)
        = ((s.memRead16 s.sp).2.memWrite (s.sp + 1) (hiByte v)).byteAt (s.sp + 1) :=
          State.read_memWrite_other _ _ (word_ne_succ s.sp).symm
      _ = hiByte v := hiStored ((State.plainAt_congr (by simp) _).2 plain)

/-- Settles O30: both forms are one `exchangeTop`, and the word it read put into the register. -/
theorem stackExchangesSwapTheTopWord : Obligations.StackExchangesSwapTheTopWord := by
  intro s
  constructor
  · have exchanged := s.exchangeTop_exchanged s.hl
    have hi : hiByte s.hl = s.regs.h := by simp [State.hl]
    have lo : loByte s.hl = s.regs.l := by simp [State.hl]
    rw [TopExchanged, hi, lo] at exchanged
    refine ⟨_, loByte (s.exchangeTop s.hl).1, hiByte (s.exchangeTop s.hl).1, rfl, ?_, s.exchangeTop_sp s.hl, exchanged⟩
    rw [State.hl_setHl, joinBytes_hiByte_loByte]
  · intro i
    have exchanged := s.exchangeTop_exchanged (s.idx i)
    refine ⟨_, loByte (s.exchangeTop (s.idx i)).1, hiByte (s.exchangeTop (s.idx i)).1, rfl, ?_, ?_,
      exchanged.congr (by simp) (by simp)⟩
    · rw [State.idx_setIdx, joinBytes_hiByte_loByte]
    · simpa using s.exchangeTop_sp (s.idx i)

/-! ### The acceptance of an interrupt -/

theorem State.countR_r (s : State) (n : Nat) (count : s.params.rModel = .count) : (s.countR n).r = advanceR s.r n := by
  simp [State.countR, count]

theorem State.drawR_topBit (s : State) : s.drawR.r.getLsbD 7 = s.r.getLsbD 7 := by
  unfold State.drawR
  split <;> simp

/-- R counts an acceptance (10_state.md rule R26): what leaving the halted state draws are its low seven bits. -/
theorem State.acceptPrologue_r (s : State) (count : s.params.rModel = .count) :
    s.acceptPrologue.r.getLsbD 7 = s.r.getLsbD 7 ∧ (s.halted = false → s.acceptPrologue.r = advanceR s.r 1) := by
  have advanced (r : Byte) : (advanceR r 1).getLsbD 7 = r.getLsbD 7 := (advanceR_spec r 1).2
  unfold State.acceptPrologue
  split
  · next halted =>
    refine ⟨?_, by simp [halted]⟩
    rw [State.countR_r _ _ (by simpa using count), advanced, State.drawR_topBit]
  · rw [State.countR_r _ _ count]
    exact ⟨advanced s.r, fun _ => rfl⟩

theorem State.acceptPrologue_pc (s : State) : s.acceptPrologue.pc = s.returnAddress := by
  simp [State.returnAddress, cond_eq_ite]

theorem State.acceptPrologue_plainAt (s : State) (a : Word) : s.acceptPrologue.plainAt a ↔ s.plainAt a :=
  State.plainAt_congr (by simp) a

theorem State.takeInterrupt_pushed (s : State) (target : Word) (iff2 : Bool) :
    Pushed s.returnAddress s (s.takeInterrupt target iff2) := by
  have pushed := s.acceptPrologue.push16_pushed s.acceptPrologue.pc
  have same : s.acceptPrologue.sp = s.sp ∧ s.acceptPrologue.trace = s.trace := by simp
  simp only [Pushed, State.acceptPrologue_plainAt, same, State.acceptPrologue_pc] at pushed
  unfold State.takeInterrupt
  simp only [State.acceptPrologue_pc]
  exact pushed

/-- The push is all an acceptance does to memory, and the prologue all it does to R. -/
theorem State.takeInterrupt_accepted (s : State) (target : Word) (iff2 : Bool) :
    Accepted target iff2 s (s.takeInterrupt target iff2) := by
  obtain ⟨sp, -, hiStored, loStored⟩ := s.takeInterrupt_pushed target iff2
  refine ⟨rfl, sp, rfl, rfl, by simp, fun count => ?_, hiStored, loStored, fun a hi lo => ?_, fun cell kept => ?_⟩
  · simpa [State.takeInterrupt] using s.acceptPrologue_r count
  · have other := s.acceptPrologue.read_push16_other (b := a) s.acceptPrologue.pc (by simpa using hi) (by simpa using lo)
    simpa [State.byteAt, State.takeInterrupt] using other
  · cases cell with
    | sp | pc | r | iff1 | iff2 | halted => simp at kept
    | reg | flag | altReg | altFlag | ix | iy | i | im => simp [State.cell]

theorem LinesKept.trans {s t u : State} (first : LinesKept s t) (second : LinesKept t u) : LinesKept s u := by
  obtain ⟨line, nmi, violation⟩ := first
  rwa [LinesKept, line, nmi, violation] at second

theorem State.memWrite_linesKept (s : State) {a : Word} (v : Byte) (plain : s.plainAt a) :
    LinesKept s (s.memWrite a v) := by
  simp [LinesKept, s.memWrite_quiet v plain]

/-- A push into plain memory asks the environment nothing (log 5). -/
theorem State.push16_linesKept (s : State) (v : Word) (hi : s.plainAt (s.sp - 1)) (lo : s.plainAt (s.sp - 2)) :
    LinesKept s (s.push16 v) := by
  have first : LinesKept s ((s.setSp (s.sp - 1)).memWrite (s.sp - 1) (hiByte v)) :=
    State.memWrite_linesKept (s.setSp _) _ hi
  have between : ((s.setSp (s.sp - 1)).memWrite (s.sp - 1) (hiByte v)).sp - 1 = s.sp - 2 := by
    rw [← word_sub_two]
    simp
  exact first.trans (State.memWrite_linesKept (State.setSp _ _) _
    (by rwa [between, State.plainAt_congr (s := s) (by simp)]))

theorem State.takeInterrupt_linesKept (s : State) (target : Word) (iff2 : Bool) (hi : s.plainAt (s.sp - 1))
    (lo : s.plainAt (s.sp - 2)) : LinesKept s (s.takeInterrupt target iff2) := by
  have sp : s.acceptPrologue.sp = s.sp := by simp
  have kept := s.acceptPrologue.push16_linesKept s.acceptPrologue.pc
    (by rwa [sp, State.acceptPrologue_plainAt]) (by rwa [sp, State.acceptPrologue_plainAt])
  simpa [LinesKept, State.takeInterrupt] using kept

/-- A step whose poll accepts is the acceptance alone (60_exceptions.md rules R214, R229). -/
theorem step_of_poll_accepts {s t : State} (live : s.live) (accepts : s.nextDraw.poll = (t, true)) :
    step s = endOfStep (.next t) := by
  obtain ⟨initialised, written, -⟩ := live
  simp only [step, iterate, initialised, written, accepts, if_true, State.unlessViolated, endOfStep]
  cases t.violation <;> rfl

/-- Settles O51: the poll looks at the latch first, and what it accepts is the whole step. -/
theorem nmiIsAlwaysAccepted : Obligations.NmiIsAlwaysAccepted := by
  intro s live latched
  have accepts : s.nextDraw.poll = (s.nextDraw.acceptNmi, true) := if_pos latched
  obtain ⟨-, trace, -, -⟩ := s.nextDraw.takeInterrupt_pushed 0x0066 s.iff1
  refine ⟨s.nextDraw.acceptNmi, step_of_poll_accepts live accepts, s.nextDraw.takeInterrupt_accepted 0x0066 s.iff1, rfl,
    trace, fun hi lo => ?_⟩
  obtain ⟨line, -, violation⟩ := s.nextDraw.takeInterrupt_linesKept 0x0066 s.iff1 hi lo
  obtain ⟨-, -, noViolation⟩ := live
  exact ⟨line, violation.trans noViolation⟩

end Sys2Proof.Machine
end

section
/-!
PROOFS. The encoding maps (30_encoding.md rules R53 to R70). Each map is checked at every one of its opcode bytes, with
the operand bytes left as variables: the entry is an instruction of the table, its encoding is the bytes it was read
from, and it is gated exactly if R67 lists it (`decodeBytes_isEntry`). The statements about the decoder are read off
these checks; the round trip adds that its encoding is all the decoder needs of an instruction (`encode_decodesTo`).
-/

namespace Sys2Proof

open Machine

/-! ### Which map the first byte selects (R53) -/

theorem selectsMap_eq_true {b0 : Byte} (h : selectsMap b0 = true) :
    b0 = 0xCB ∨ b0 = 0xED ∨ ∃ i : Idx, b0 = i.code := by
  simp only [selectsMap, Bool.or_eq_true, beq_iff_eq] at h
  rcases h with ((cb | dd) | ed) | fd
  · exact .inl cb
  · exact .inr (.inr ⟨.ix, dd⟩)
  · exact .inr (.inl ed)
  · exact .inr (.inr ⟨.iy, fd⟩)

theorem selectsMap_eq_false_iff {b0 : Byte} :
    selectsMap b0 = false ↔ b0 ≠ 0xCB ∧ b0 ≠ 0xED ∧ b0 ≠ 0xDD ∧ b0 ≠ 0xFD := by
  simp only [selectsMap, Bool.or_eq_false_iff, beq_eq_false_iff_ne]
  tauto

theorem decodeBytes_idx (i : Idx) (b1 b2 b3 : Byte) : decodeBytes i.code b1 b2 b3 = decodeIndexed i b1 b2 b3 := by
  cases i <;> rfl

theorem instrLength_idx (i : Idx) (b1 : Byte) : instrLength i.code b1 = ddLength b1 := by
  cases i <;> rfl

theorem gatedBytes_idx (i : Idx) (b1 b3 : Byte) : gatedBytes i.code b1 b3 = gatedBytes 0xDD b1 b3 := by
  cases i <;> rfl

theorem instrLength_base {b0 : Byte} (h : selectsMap b0 = false) (b1 : Byte) : instrLength b0 b1 = baseLength b0 := by
  obtain ⟨cb, ed, dd, fd⟩ := selectsMap_eq_false_iff.1 h
  simp only [instrLength, cb, ed, dd, fd, if_false, or_self]

/-! ### Every entry of every map -/

/-- An opcode byte by its two hexadecimal digits: the row and the column of a map. -/
theorem exists_digits (op : Byte) : ∃ hi lo : Fin 16, op = BitVec.ofNat 8 (16 * hi + lo) := by
  have bound := op.isLt
  refine ⟨⟨op.toNat / 16, by omega⟩, ⟨op.toNat % 16, by omega⟩, BitVec.eq_of_toNat_eq ?_⟩
  simp only [BitVec.toNat_ofNat]
  omega

/-- An entry of the maps: an instruction of the table, with these bytes, which R67 lists or does not. -/
structure Instr.IsEntry (i : Instr) (bytes : List Byte) (gated : Bool) : Prop where
  wf : i.wf = true
  encode : i.encode = bytes
  undocumented : i.undocumented = gated

theorem decodeBase_isEntry {op : Byte} (nn : Word) (b3 : Byte) (base : selectsMap op = false) :
    (decodeBase op (loByte nn) nn).IsEntry ([op, loByte nn, hiByte nn, b3].take (baseLength op)) false := by
  obtain ⟨hi, lo, rfl⟩ := exists_digits op
  fin_cases hi <;> fin_cases lo <;> cases base <;> exact ⟨rfl, rfl, rfl⟩

theorem decodeCb_isEntry (op b3 : Byte) : (decodeCb op).IsEntry [0xCB, op] (gatedBytes 0xCB op b3) := by
  obtain ⟨hi, lo, rfl⟩ := exists_digits op
  fin_cases hi <;> fin_cases lo <;> exact ⟨rfl, rfl, rfl⟩

theorem decodeEd_isEntry (op : Byte) (nn : Word) (b3 : Byte) :
    (decodeEd op nn).IsEntry ([0xED, op, loByte nn, hiByte nn].take (edLength op)) (gatedBytes 0xED op b3) := by
  obtain ⟨hi, lo, rfl⟩ := exists_digits op
  fin_cases hi <;> fin_cases lo <;> exact ⟨rfl, rfl, rfl⟩

theorem decodeXcb_isEntry (i : Idx) (d op : Byte) :
    (decodeXcb i d op).IsEntry [i.code, 0xCB, d, op] (gatedBytes 0xDD 0xCB op) := by
  obtain ⟨hi, lo, rfl⟩ := exists_digits op
  fin_cases hi <;> fin_cases lo <;> exact ⟨rfl, rfl, rfl⟩

/-- Where the `DD`/`FD` map has no entry, the first byte is ignored (R65). -/
theorem decodeDdX0_isEntry (i : Idx) {op : Byte} (nn : Word) (x0 : fieldX op = 0) :
    ((decodeDdX0 i op (loByte nn) (hiByte nn) nn).getD (.ignoredPrefix i)).IsEntry
      ([i.code, op, loByte nn, hiByte nn].take (ddLength op)) (gatedBytes 0xDD op (hiByte nn)) := by
  obtain ⟨hi, lo, rfl⟩ := exists_digits op
  fin_cases hi <;> fin_cases lo <;> cases x0 <;> exact ⟨rfl, rfl, rfl⟩

theorem decodeDd_isEntry (i : Idx) {op : Byte} (d n : Byte) (other : (fieldX op == 0 || op == 0xCB) = false) :
    ((decodeDd i op d n).getD (.ignoredPrefix i)).IsEntry ([i.code, op, d, n].take (ddLength op))
      (gatedBytes 0xDD op n) := by
  obtain ⟨hi, lo, rfl⟩ := exists_digits op
  fin_cases hi <;> fin_cases lo <;> cases other <;> exact ⟨rfl, rfl, rfl⟩

theorem decodeIndexed_isEntry (i : Idx) (b1 b2 b3 : Byte) :
    (decodeIndexed i b1 b2 b3).IsEntry ([i.code, b1, b2, b3].take (ddLength b1)) (gatedBytes 0xDD b1 b3) := by
  by_cases xcb : b1 = 0xCB
  · subst xcb
    exact decodeXcb_isEntry i b2 b3
  · have entry : ((decodeDd i b1 b2 b3).getD (.ignoredPrefix i)).IsEntry ([i.code, b1, b2, b3].take (ddLength b1))
        (gatedBytes 0xDD b1 b3) := by
      by_cases x0 : fieldX b1 = 0
      · simpa [decodeDd, x0] using decodeDdX0_isEntry i (joinBytes b3 b2) x0
      · exact decodeDd_isEntry i b2 b3 (by rw [beq_eq_false_iff_ne.2 x0, beq_eq_false_iff_ne.2 xcb]; rfl)
    rw [decodeIndexed, if_neg xcb]
    cases found : decodeDd i b1 b2 b3 <;> simpa [found] using entry

/-- Four bytes are read as an entry whose encoding is as many of them as its length says (R69, R70). -/
theorem decodeBytes_isEntry (b0 b1 b2 b3 : Byte) :
    (decodeBytes b0 b1 b2 b3).IsEntry ([b0, b1, b2, b3].take (instrLength b0 b1)) (gatedBytes b0 b1 b3) := by
  cases map : selectsMap b0
  · have entry := decodeBase_isEntry (joinBytes b2 b1) b3 map
    obtain ⟨cb, ed, dd, fd⟩ := selectsMap_eq_false_iff.1 map
    simp only [decodeBytes, instrLength, gatedBytes, cb, ed, dd, fd, if_false, or_self]
    simpa using entry
  · obtain rfl | rfl | ⟨i, rfl⟩ := selectsMap_eq_true map
    · exact decodeCb_isEntry b1 b3
    · simpa using! decodeEd_isEntry b1 (joinBytes b3 b2) b3
    · rw [decodeBytes_idx, instrLength_idx, gatedBytes_idx]
      exact decodeIndexed_isEntry i b1 b2 b3

/-! ### Lengths (R70) -/

theorem baseLength_bounds (op : Byte) : 1 ≤ baseLength op ∧ baseLength op ≤ 3 := by decide +kernel +revert

theorem edLength_eq (op : Byte) :
    edLength op = if op ∈ [0x43, 0x4B, 0x53, 0x5B, 0x63, 0x6B, 0x73, 0x7B] then 4 else 2 := by
  decide +kernel +revert

theorem ddLength_bounds (op : Byte) :
    1 ≤ ddLength op ∧ ddLength op ≤ 4 ∧ (ddLength op = 1 ↔ ignoredBy op = true) := by
  decide +kernel +revert

theorem instrLength_bounds (b0 b1 : Byte) : 1 ≤ instrLength b0 b1 ∧ instrLength b0 b1 ≤ 4 := by
  cases map : selectsMap b0
  · have := baseLength_bounds b0
    rw [instrLength_base map]
    omega
  · obtain rfl | rfl | ⟨i, rfl⟩ := selectsMap_eq_true map
    · show 1 ≤ 2 ∧ 2 ≤ 4
      decide
    · show 1 ≤ edLength b1 ∧ edLength b1 ≤ 4
      rw [edLength_eq]
      split <;> decide
    · obtain ⟨low, high, -⟩ := ddLength_bounds b1
      rw [instrLength_idx]
      exact ⟨low, high⟩

theorem length_encode_decodeBytes (b0 b1 b2 b3 : Byte) :
    (decodeBytes b0 b1 b2 b3).encode.length = instrLength b0 b1 := by
  have := instrLength_bounds b0 b1
  simp [(decodeBytes_isEntry b0 b1 b2 b3).encode]
  omega

/-- Settles O3: an entry's encoding is as many of the four bytes as `instrLength` says, and each clause is about the
length of one map. -/
theorem lengthFromFirstTwoBytes : Obligations.LengthFromFirstTwoBytes := by
  intro b0 b1 b2 b3
  obtain ⟨low, high⟩ := instrLength_bounds b0 b1
  rw [length_encode_decodeBytes]
  refine ⟨rfl, low, high, ?_, ?_, fun idx => ?_, fun cb ed dd fd => ?_⟩
  · rintro rfl; rfl
  · rintro rfl; exact edLength_eq b1
  · have : instrLength b0 b1 = ddLength b1 := by rcases idx with rfl | rfl <;> rfl
    rw [this]
    refine ⟨(ddLength_bounds b1).2.2, ?_⟩
    rintro rfl; rfl
  · rw [instrLength_base (selectsMap_eq_false_iff.2 ⟨cb, ed, dd, fd⟩)]
    exact (baseLength_bounds b0).2

/-- Settles O4: what the decoder reads from four bytes is an entry. -/
theorem gatedEncodingsAreTheListed : Obligations.GatedEncodingsAreTheListed :=
  ⟨fun b0 b1 b2 b3 => (decodeBytes_isEntry b0 b1 b2 b3).undocumented, fun _ => rfl, fun _ => rfl⟩

/-- Settles O5, by evaluating the decoder. -/
theorem wordsDecodeAsTheMapsSay : Obligations.WordsDecodeAsTheMapsSay :=
  ⟨rfl, rfl, rfl, rfl, rfl, rfl, rfl, rfl, rfl, rfl⟩

/-! ### The decoder on a list of bytes -/

theorem bytesSeen_bounds (b0 b1 : Byte) : instrLength b0 b1 ≤ bytesSeen b0 b1 ∧ bytesSeen b0 b1 ≤ 4 := by
  have := instrLength_bounds b0 b1
  unfold bytesSeen
  split <;> omega

/-- The list is long enough, and the instruction is read from its first bytes. -/
theorem decode_cons_eq_ok_iff {b0 : Byte} {bytes rest : List Byte} {i : Instr} :
    decode (b0 :: bytes) = .ok (i, rest) ↔
      bytesSeen b0 (bytes.getD 0 0) ≤ bytes.length + 1 ∧
      decodeBytes b0 (bytes.getD 0 0) (bytes.getD 1 0) (bytes.getD 2 0) = i ∧
      (b0 :: bytes).drop (instrLength b0 (bytes.getD 0 0)) = rest := by
  simp only [decode, List.length_cons]
  split
  · next short => simp only [reduceCtorEq, not_le.2 short, false_and]
  · next long => simp only [Except.ok.injEq, Prod.mk.injEq, not_lt.1 long, true_and]

/-- The bytes the decoder looks at are the first bytes of the list, as far as there are any. -/
theorem take_getD_eq_take (b0 : Byte) (bytes : List Byte) {n : Nat} (few : n ≤ 4) (enough : n ≤ bytes.length + 1) :
    [b0, bytes.getD 0 0, bytes.getD 1 0, bytes.getD 2 0].take n = (b0 :: bytes).take n := by
  rcases bytes with - | ⟨b1, - | ⟨b2, - | ⟨b3, more⟩⟩⟩ <;>
    simp only [List.length_cons, List.length_nil] at enough <;> interval_cases n <;> rfl

theorem Instr.mayBefore_iff {i : Instr} {rest : List Byte} :
    i.mayBefore rest ↔ ∀ j, i = .ignoredPrefix j → ∃ b more, rest = b :: more ∧ ignoredBy b = true := by
  cases i <;> simp [Instr.mayBefore]

theorem decodeBytes_eq_ignoredPrefix {b0 b1 b2 b3 : Byte} {i : Idx} (h : decodeBytes b0 b1 b2 b3 = .ignoredPrefix i) :
    b0 = i.code ∧ instrLength b0 b1 = 1 ∧ ignoredBy b1 = true := by
  have entry := (decodeBytes_isEntry b0 b1 b2 b3).encode
  have length := length_encode_decodeBytes b0 b1 b2 b3
  rw [h] at entry length
  rw [← length] at entry
  obtain rfl : i.code = b0 := by simpa [Instr.encode] using entry
  rw [instrLength_idx] at length ⊢
  exact ⟨rfl, length.symm, (ddLength_bounds b1).2.2.1 length.symm⟩

/-- Settles O2: four bytes are as many as the decoder ever looks at, and what it reads from them is an entry. -/
theorem everyByteSequenceDecodes : Obligations.EveryByteSequenceDecodes := by
  constructor
  · intro bytes long
    cases bytes with
    | nil => cases long
    | cons b0 bytes =>
      have seen := (bytesSeen_bounds b0 (bytes.getD 0 0)).2
      exact ⟨_, _, decode_cons_eq_ok_iff.2 ⟨seen.trans long, rfl, rfl⟩⟩
  · intro bytes i rest decoded
    cases bytes with
    | nil => cases decoded
    | cons b0 bytes =>
      obtain ⟨enough, rfl, rfl⟩ := decode_cons_eq_ok_iff.1 decoded
      have entry := decodeBytes_isEntry b0 (bytes.getD 0 0) (bytes.getD 1 0) (bytes.getD 2 0)
      obtain ⟨seen, -⟩ := bytesSeen_bounds b0 (bytes.getD 0 0)
      obtain ⟨-, few⟩ := instrLength_bounds b0 (bytes.getD 0 0)
      rw [take_getD_eq_take b0 bytes few (seen.trans enough)] at entry
      refine ⟨entry.wf, ?_, Instr.mayBefore_iff.2 fun j ignored => ?_⟩
      · rw [entry.encode, List.take_append_drop]
      · obtain ⟨rfl, one, isIgnored⟩ := decodeBytes_eq_ignoredPrefix ignored
        have map : selectsMap j.code = true := by cases j <;> rfl
        rw [bytesSeen, if_pos map, one] at enough
        cases bytes with
        | nil => simp at enough
        | cons b1 more => exact ⟨b1, more, congrArg (List.drop · (j.code :: b1 :: more)) one, isIgnored⟩

/-! ### The fields and codes of an opcode byte (R56, R57) -/

@[simp] theorem fieldX_opcode {x y z : Nat} (hx : x < 4) (hy : y < 8) (hz : z < 8) : fieldX (opcode x y z) = x := by
  simp only [opcode, fieldX, BitVec.toNat_ofNat]
  omega

@[simp] theorem fieldY_opcode {x z : Nat} (y : Fin 8) (hz : z < 8) : fieldY (opcode x y z) = y := by
  apply Fin.ext
  simp only [opcode, fieldY, BitVec.toNat_ofNat]
  omega

@[simp] theorem fieldZ_opcode {x y z : Nat} (hz : z < 8) : fieldZ (opcode x y z) = z := by
  simp only [opcode, fieldZ, BitVec.toNat_ofNat]
  omega

@[simp] theorem Reg8.code_lt (r : Reg8) : r.code < 8 := by cases r <;> decide

@[simp] theorem Opnd8.code_lt (o : Opnd8) : o.code < 8 := by
  cases o with
  | reg r => exact r.code_lt
  | hlMem => decide

@[simp] theorem Opnd8.ofCode_reg (r : Reg8) : Opnd8.ofCode r.code = .reg r := by cases r <;> rfl

@[simp] theorem Opnd8.ofCode_six : Opnd8.ofCode 6 = .hlMem := rfl

@[simp] theorem Opnd8.ofCode_code (o : Opnd8) : Opnd8.ofCode o.code = o := by
  cases o with
  | reg r => exact Opnd8.ofCode_reg r
  | hlMem => rfl

/-! ### The round trip -/

/-- What the decoder reads from these bytes is the instruction, whatever bytes follow. -/
def DecodesTo (bytes : List Byte) (i : Instr) : Prop :=
  match bytes with
  | [b0] => selectsMap b0 = false ∧ ∀ b1 b2 b3, decodeBytes b0 b1 b2 b3 = i
  | [b0, b1] => ∀ b2 b3, decodeBytes b0 b1 b2 b3 = i
  | [b0, b1, b2] => ∀ b3, decodeBytes b0 b1 b2 b3 = i
  | [b0, b1, b2, b3] => decodeBytes b0 b1 b2 b3 = i
  | _ => False

theorem decodesTo_cb {op : Byte} {i : Instr} (h : decodeCb op = i) : DecodesTo [0xCB, op] i := fun _ _ => h

theorem decodesTo_xcb {i : Idx} {d op : Byte} {j : Instr} (h : decodeXcb i d op = j) :
    DecodesTo [i.code, 0xCB, d, op] j :=
  (decodeBytes_idx i 0xCB d op).trans h

section
variable (y : Fin 8) (o : Opnd8) (i : Idx) (d : Byte) (z : Reg8)

theorem decodeCb_bit : decodeCb (opcode 1 y o.code) = .bitR8 y o := by simp [decodeCb]

theorem decodeCb_res : decodeCb (opcode 2 y o.code) = .resR8 y o := by simp [decodeCb]

theorem decodeCb_set : decodeCb (opcode 3 y o.code) = .setR8 y o := by simp [decodeCb]

theorem decodeXcb_bit : decodeXcb i d (opcode 1 y 6) = .bitIdxMem y i d := by simp [decodeXcb]

theorem decodeXcb_bitDup : decodeXcb i d (opcode 1 y z.code) = .bitIdxDup y i d z := by simp [decodeXcb]

theorem decodeXcb_res : decodeXcb i d (opcode 2 y 6) = .resIdxMem y i d := by simp [decodeXcb]

theorem decodeXcb_resCopy : decodeXcb i d (opcode 2 y z.code) = .resIdxCopy y i d z := by simp [decodeXcb]

theorem decodeXcb_set : decodeXcb i d (opcode 3 y 6) = .setIdxMem y i d := by simp [decodeXcb]

theorem decodeXcb_setCopy : decodeXcb i d (opcode 3 y z.code) = .setIdxCopy y i d z := by simp [decodeXcb]

end

/-- What R61 lists as undefined is no entry of the `ED` map (R66). -/
theorem decodeEd_undefined {op : Byte} (h : undefinedEd op = true) (nn : Word) :
    decodeEd op nn = .edUndefined op := by
  obtain ⟨hi, lo, rfl⟩ := exists_digits op
  fin_cases hi <;> fin_cases lo <;> cases h <;> rfl

/-- An encoding settles what is read from it, but for the ignored byte, which by itself leaves open what it is (R65). -/
theorem encode_decodesTo (i : Instr) (wf : i.wf = true) (other : ∀ j, i ≠ .ignoredPrefix j) :
    DecodesTo i.encode i := by
  cases i with
  -- One byte.
  | nop | exAfAf | rlca | rrca | rla | rra | daa | cpl | scf | ccf | halt | ret | exx | jpHl | ldSpHl | exSpHl | exDeHl
  | di | ei =>
    exact ⟨rfl, fun _ _ _ => rfl⟩
  | addHlRp p | incRp p | decRp p | ldRpMemA p | ldARpMem p | popRp2 p | pushRp2 p =>
    cases p <;> exact ⟨rfl, fun _ _ _ => rfl⟩
  | incR8 o | decR8 o | addAR8 o | adcAR8 o | subR8 o | sbcAR8 o | andR8 o | xorR8 o | orR8 o | cpR8 o =>
    cases o with
    | reg r => cases r <;> exact ⟨rfl, fun _ _ _ => rfl⟩
    | hlMem => exact ⟨rfl, fun _ _ _ => rfl⟩
  | ldRHlMem r | ldHlMemR r => cases r <;> exact ⟨rfl, fun _ _ _ => rfl⟩
  | ldRR y z => cases y <;> cases z <;> exact ⟨rfl, fun _ _ _ => rfl⟩
  | retCc cc => cases cc <;> exact ⟨rfl, fun _ _ _ => rfl⟩
  | rst y => fin_cases y <;> exact ⟨rfl, fun _ _ _ => rfl⟩
  -- An opcode and a byte.
  | djnz | jr | ldHlMemN | outNA | inAN | addAN | adcAN | subN | sbcAN | andN | xorN | orN | cpN => exact fun _ _ => rfl
  | jrCc cc => cases cc <;> exact fun _ _ => rfl
  | ldRN r => cases r <;> exact fun _ _ => rfl
  -- An opcode and a word.
  | ldNnMemHl nn | ldNnMemA nn | ldHlNnMem nn | ldANnMem nn | jpNn nn | callNn nn =>
    exact fun _ => congrArg _ (joinBytes_hiByte_loByte nn)
  | ldRpNn p nn => cases p <;> exact fun _ => congrArg _ (joinBytes_hiByte_loByte nn)
  | jpCcNn cc nn | callCcNn cc nn => cases cc <;> exact fun _ => congrArg _ (joinBytes_hiByte_loByte nn)
  -- The `CB` map.
  | rlcR8 o | rrcR8 o | rlR8 o | rrR8 o | slaR8 o | sraR8 o | sllR8 o | srlR8 o =>
    cases o with
    | reg r => cases r <;> exact fun _ _ => rfl
    | hlMem => exact fun _ _ => rfl
  | bitR8 b o => exact decodesTo_cb (decodeCb_bit b o)
  | resR8 b o => exact decodesTo_cb (decodeCb_res b o)
  | setR8 b o => exact decodesTo_cb (decodeCb_set b o)
  -- The `ED` map.
  | inFC | outC0 | neg | retn | reti | im0 | im1 | im2 | im0Dup | im1Dup | im2Dup | ldIA | ldRA | ldAI | ldAR | rrd
  | rld | ldi | cpi | ini | outi | ldd | cpd | ind | outd | ldir | cpir | inir | otir | lddr | cpdr | indr | otdr =>
    exact fun _ _ => rfl
  | im01 q => cases q <;> exact fun _ _ => rfl
  | inRC r | outCR r => cases r <;> exact fun _ _ => rfl
  | sbcHlRp p | adcHlRp p => cases p <;> exact fun _ _ => rfl
  | negDup y | retnDup y => fin_cases y <;> cases wf <;> exact fun _ _ => rfl
  | edUndefined op => exact fun _ _ => decodeEd_undefined wf _
  | ldNnMemHlEd nn | ldHlNnMemEd nn => exact congrArg _ (joinBytes_hiByte_loByte nn)
  | ldNnMemRp p nn | ldRpNnMem p nn => cases p <;> cases wf <;> exact congrArg _ (joinBytes_hiByte_loByte nn)
  -- The `DD` and `FD` maps.
  | incIdx i | decIdx i | popIdx i | exSpIdx i | pushIdx i | jpIdx i | ldSpIdx i =>
    cases i <;> exact fun _ _ => rfl
  | addIdxRp i p => cases i <;> cases p <;> exact fun _ _ => rfl
  | incHalf i h | decHalf i h | addAHalf i h | adcAHalf i h | subHalf i h | sbcAHalf i h | andHalf i h | xorHalf i h
  | orHalf i h | cpHalf i h =>
    cases i <;> cases h <;> exact fun _ _ => rfl
  | ldXX i y z => cases i <;> cases y <;> cases z <;> cases wf <;> exact fun _ _ => rfl
  | incIdxMem i | decIdxMem i | addAIdxMem i | adcAIdxMem i | subIdxMem i | sbcAIdxMem i | andIdxMem i | xorIdxMem i
  | orIdxMem i | cpIdxMem i =>
    cases i <;> exact fun _ => rfl
  | ldHalfN i h => cases i <;> cases h <;> exact fun _ => rfl
  | ldRIdxMem r i | ldIdxMemR i _ r => cases i <;> cases r <;> exact fun _ => rfl
  | ldIdxMemN i => cases i <;> rfl
  | ldIdxNn i nn | ldNnMemIdx i nn | ldIdxNnMem i nn => cases i <;> exact congrArg _ (joinBytes_hiByte_loByte nn)
  | ignoredPrefix i => exact absurd rfl (other i)
  -- The `DD CB` and `FD CB` maps.
  | rlcIdxMem i | rrcIdxMem i | rlIdxMem i | rrIdxMem i | slaIdxMem i | sraIdxMem i | sllIdxMem i | srlIdxMem i =>
    cases i <;> rfl
  | rlcIdxCopy i _ z | rrcIdxCopy i _ z | rlIdxCopy i _ z | rrIdxCopy i _ z | slaIdxCopy i _ z | sraIdxCopy i _ z
  | sllIdxCopy i _ z | srlIdxCopy i _ z =>
    cases i <;> cases z <;> rfl
  | bitIdxMem b i d => exact decodesTo_xcb (decodeXcb_bit b i d)
  | bitIdxDup b i d z => exact decodesTo_xcb (decodeXcb_bitDup b i d z)
  | resIdxMem b i d => exact decodesTo_xcb (decodeXcb_res b i d)
  | resIdxCopy b i d z => exact decodesTo_xcb (decodeXcb_resCopy b i d z)
  | setIdxMem b i d => exact decodesTo_xcb (decodeXcb_set b i d)
  | setIdxCopy b i d z => exact decodesTo_xcb (decodeXcb_setCopy b i d z)


/-- A list that starts with the bytes of the instruction read from it leaves the bytes after them. After a byte that
selects a map there has to be one more (R65). -/
theorem decode_append {b0 : Byte} {tail rest : List Byte} {i : Instr}
    (read : decodeBytes b0 ((tail ++ rest).getD 0 0) ((tail ++ rest).getD 1 0) ((tail ++ rest).getD 2 0) = i)
    (encoded : i.encode = b0 :: tail) (more : selectsMap b0 = false ∨ 1 ≤ (tail ++ rest).length) :
    decode (b0 :: tail ++ rest) = .ok (i, rest) := by
  have length : instrLength b0 ((tail ++ rest).getD 0 0) = tail.length + 1 := by
    rw [← length_encode_decodeBytes, read, encoded, List.length_cons]
  rw [List.cons_append]
  refine decode_cons_eq_ok_iff.2 ⟨?_, read, ?_⟩
  · simp only [bytesSeen, length, List.length_append] at more ⊢
    split
    · next map =>
      have : 1 ≤ tail.length + rest.length := more.resolve_left (by simp [map])
      omega
    · omega
  · rw [length, List.drop_succ_cons, List.drop_left]

theorem DecodesTo.decode_eq {bytes : List Byte} {i : Instr} (h : DecodesTo bytes i) (encoded : i.encode = bytes)
    (rest : List Byte) : decode (bytes ++ rest) = .ok (i, rest) := by
  unfold DecodesTo at h
  split at h
  next => exact decode_append (h.2 ..) encoded (.inl h.1)
  next => exact decode_append (h ..) encoded (.inr (by simp))
  next => exact decode_append (h ..) encoded (.inr (by simp))
  next => exact decode_append h encoded (.inr (by simp))
  next => exact h.elim

/-- Whether a byte after `DD` or `FD` is an entry of the map does not depend on the index register or the operands. -/
theorem decodeDd_eq_none {op : Byte} (h : ignoredBy op = true) (i : Idx) (b2 b3 : Byte) :
    decodeDd i op b2 b3 = none := by
  obtain ⟨hi, lo, rfl⟩ := exists_digits op
  fin_cases hi <;> fin_cases lo <;> cases h <;> rfl

theorem decodeIndexed_of_ignoredBy {b1 : Byte} (h : ignoredBy b1 = true) (i : Idx) (b2 b3 : Byte) :
    decodeIndexed i b1 b2 b3 = .ignoredPrefix i := by
  have other : b1 ≠ 0xCB := by rintro rfl; cases h
  rw [decodeIndexed, if_neg other, decodeDd_eq_none h]

/-- Settles O1: an ignored `DD` or `FD` is read from that byte and the next, any other instruction from its encoding. -/
theorem decodeUndoesEncode : Obligations.DecodeUndoesEncode := by
  intro i rest wf follows
  by_cases ignored : ∃ j, i = .ignoredPrefix j
  · obtain ⟨j, rfl⟩ := ignored
    obtain ⟨b1, more, rfl, isIgnored⟩ := follows
    have read := (decodeBytes_idx j b1 (more.getD 0 0) (more.getD 1 0)).trans (decodeIndexed_of_ignoredBy isIgnored ..)
    exact decode_append (tail := []) read rfl (.inr (by simp))
  · exact (encode_decodesTo i wf (not_exists.1 ignored)).decode_eq rfl rest

end Sys2Proof
end

section
/-!
PROOFS. What an instruction and a step can end in (30_encoding.md rules R67 to R69, 60_exceptions.md rules R209, R229,
R235): a gated encoding is refused or executes, every other instruction executes, and a live core faults only by a
forbidden host call of a callback. The last part counts what a step asks of the environment, seven answers at most.
-/

namespace Sys2Proof.Machine

open Sys2Proof

/-! ### What an instruction can end in -/

/-- A gated encoding goes through `State.undocumented`, and every other instruction answers a next state. -/
theorem exec_outcome (i : Instr) (s : State) :
    ∃ t, exec i s = if i.undocumented then s.undocumented i t else .next t := by
  cases i with
  | bitR8 b o => cases o <;> exact ⟨_, rfl⟩
  | _ => exact ⟨_, rfl⟩

/-- Settles O10: `State.undocumented` is what decides between the refusal and the effect. -/
theorem refusedExactlyWhenGatedAndRefusing : Obligations.RefusedExactlyWhenGatedAndRefusing := by
  intro i s
  obtain ⟨t, outcome⟩ := exec_outcome i s
  rw [outcome]
  constructor
  · rintro ⟨gated, refuses⟩
    simp only [gated, if_true, State.undocumented, refuses]
  · rintro (listed | silicon)
    · exact ⟨t, if_neg (by simp [listed])⟩
    · rw [State.undocumented_silicon i t silicon, ite_self]
      exact ⟨t, rfl⟩

theorem exec_cases (i : Instr) (s : State) :
    (∃ t, exec i s = .next t) ∨
    (s.params.undocOps = .refuse ∧ ∃ pc key, exec i s = .refused (.undocumentedOpcode pc key)) := by
  obtain ⟨refused, executes⟩ := refusedExactlyWhenGatedAndRefusing i s
  cases ops : s.params.undocOps
  · exact .inl (executes (.inr ops))
  · cases gated : i.undocumented
    · exact .inl (executes (.inl gated))
    · exact .inr ⟨rfl, _, _, refused ⟨gated, ops⟩⟩

/-- What `LD A,I` and `LD A,R` leave: the byte in A, and PV telling IFF2 (R204, R205). -/
theorem State.loadSpecial_flags (s : State) (v : Byte) :
    (s.loadSpecial v).regs.a = v ∧ (s.loadSpecial v).regs.f.s = v.getLsbD 7 ∧
    (s.loadSpecial v).regs.f.z = decide (v = 0) ∧ (s.loadSpecial v).regs.f.h = false ∧
    (s.loadSpecial v).regs.f.n = false ∧ (s.loadSpecial v).regs.f.pv = s.iff2 ∧
    (s.loadSpecial v).regs.f.c = s.regs.f.c ∧ XyOf v s (s.loadSpecial v) := by
  obtain ⟨hs, hz, hh, hpv, hn, hc, hxy⟩ := s.putXY_flags (specialFlags s.regs.f v s.iff2)
  exact ⟨rfl, hs, hz, hh, hn, hpv, hc, hxy⟩

/-- Settles O50: each is one update of the state, and the undocumented mode selects execute under Silicon. -/
theorem systemInstructions : Obligations.SystemInstructions := by
  intro s
  refine ⟨rfl, fun _ => rfl, fun _ => rfl, ⟨_, rfl, rfl, rfl⟩, ⟨_, rfl, rfl, rfl⟩, ⟨_, rfl, rfl, rfl⟩, ⟨_, rfl, rfl⟩,
    ⟨_, rfl, rfl⟩, ⟨_, rfl, rfl⟩, fun silicon => ?_, ⟨_, rfl, rfl⟩, ⟨_, rfl, rfl⟩, ⟨_, rfl, s.loadSpecial_flags s.i⟩,
    ⟨_, rfl, ?_⟩⟩
  · have executes (i : Instr) (t : State) := State.undocumented_silicon i t silicon
    refine ⟨⟨_, executes _ _, rfl⟩, ⟨_, executes _ _, rfl⟩, ⟨_, executes _ _, rfl⟩, fun q => ⟨_, executes _ _, ?_⟩⟩
    cases Config.freeMode s.draws
    · exact .inl rfl
    · exact .inr rfl
  · obtain ⟨ha, flags⟩ := s.loadSpecial_flags s.readR
    rw [ha]
    exact ⟨fun count => by rw [State.readR, count], flags⟩

/-! ### What a step can end in -/

/-- A step whose poll accepts nothing runs one instruction, unless the core is halted (R229). -/
theorem step_of_poll_declines {s u : State} (live : s.live) (declines : s.nextDraw.poll = (u, false))
    (running : u.halted = false) (noViolation : u.violation = none) :
    step s = u.fetchInstr.2.unlessViolated (endOfStep (exec u.fetchInstr.1 u.fetchInstr.2)) := by
  obtain ⟨initialised, written, -⟩ := live
  simp only [step, iterate, initialised, written, declines, running, if_true, Bool.false_eq_true, if_false,
    State.unlessViolated_none _ noViolation]
  cases fetched : u.fetchInstr.2.violation with
  | some call => simp only [State.unlessViolated, fetched]
  | none =>
    simp only [State.unlessViolated_none _ fetched]
    cases exec u.fetchInstr.1 u.fetchInstr.2 with
    | fault | refused => rfl
    | next t => simp only [endOfStep, State.unlessViolated]; cases t.violation <;> rfl

/-- A callback has made a forbidden host call by the end of the poll, the fetch or the instruction (R235). -/
def State.stepViolated (s : State) : Prop :=
  s.nextDraw.poll.1.violation ≠ none ∨
  s.nextDraw.poll.2 = false ∧
    (s.nextDraw.poll.1.fetchInstr.2.violation ≠ none ∨
      ∃ t, exec s.nextDraw.poll.1.fetchInstr.1 s.nextDraw.poll.1.fetchInstr.2 = .next t ∧ t.violation ≠ none)

theorem State.poll_params (s : State) : s.poll.1.params = s.params := by
  unfold State.poll State.acceptNmi State.acceptMode0 State.acceptMode1 State.acceptMode2
  simp only []
  repeat' split
  all_goals simp

/-- A live core's step goes on, faults by a forbidden host call, or is refused under `UNDOC_OPS = Refuse`. -/
theorem step_cases {s : State} (live : s.live) :
    (∃ t, step s = .next t) ∨
    (s.stepViolated ∧ ∃ call, step s = .fault (.preconditionViolation call)) ∨
    (s.params.undocOps = .refuse ∧ ∃ pc key, step s = .refused (.undocumentedOpcode pc key)) := by
  have params : s.nextDraw.poll.1.params = s.params := s.nextDraw.poll_params
  unfold State.stepViolated
  generalize polled : s.nextDraw.poll = p at *
  obtain ⟨u, accepted⟩ := p
  obtain ⟨initialised, written, -⟩ := id live
  cases violated : u.violation with
  | some call =>
    refine .inr (.inl ⟨.inl (Option.some_ne_none call), call, ?_⟩)
    simp [step, iterate, initialised, written, polled, State.unlessViolated_some _ violated]
  | none =>
    cases accepted with
    | true => exact .inl ⟨u, by rw [step_of_poll_accepts live polled]; simp only [endOfStep, violated]⟩
    | false =>
      cases halted : u.halted with
      | true => exact .inl ⟨u, by simp [step, iterate, initialised, written, polled, violated, halted]⟩
      | false =>
        rw [step_of_poll_declines live polled halted violated]
        cases fetched : u.fetchInstr.2.violation with
        | some call =>
          exact .inr (.inl ⟨.inr ⟨rfl, .inl (Option.some_ne_none _)⟩, call, State.unlessViolated_some _ fetched⟩)
        | none =>
          rw [State.unlessViolated_none _ fetched]
          obtain ⟨t, next⟩ | ⟨refuses, pc, key, refused⟩ := exec_cases u.fetchInstr.1 u.fetchInstr.2
          · rw [next, endOfStep]
            cases ended : t.violation with
            | some call =>
              have atEnd : t.violation ≠ none := by rw [ended]; exact Option.some_ne_none call
              exact .inr (.inl ⟨.inr ⟨rfl, .inr ⟨t, rfl, atEnd⟩⟩, call, rfl⟩)
            | none => exact .inl ⟨t, rfl⟩
          · have same : u.fetchInstr.2.params = s.params := by simpa using params
            exact .inr (.inr ⟨same ▸ refuses, pc, key, by rw [refused]; rfl⟩)

/-! ### What a step asks of the environment -/

/-- No forbidden host call stands, and none is among the next n answers (R235). -/
def State.Calm (n : Nat) (s : State) : Prop := s.violation = none ∧ s.quiet n

section
variable {s t : State} {m n : Nat}

theorem State.Calm.mono (h : s.Calm m) (le : n ≤ m) : s.Calm n := by
  obtain ⟨noViolation, fixed, clean⟩ := h
  exact ⟨noViolation, le.trans fixed, fun answer mem => clean answer (List.take_subset_take_left _ le mem)⟩

/-- Only the standing call and the answers matter. -/
theorem State.Calm.congr (h : s.Calm n) (violation : t.violation = s.violation) (answers : t.answers = s.answers) :
    t.Calm n := by
  rwa [State.Calm, State.quiet, violation, answers]

/-- One answer is used up. -/
theorem State.Calm.answered (h : s.Calm (n + 1)) (request : Config.BusRequest) (event : Config.BusEvent) :
    (s.answered (s.answerTo request) event).Calm n := by
  obtain ⟨noViolation, fixed, clean⟩ := h
  unfold State.answerTo
  cases answers : s.answers with
  | nil => simp [answers] at fixed
  | cons answer rest =>
    rw [answers] at fixed clean
    refine ⟨?_, ?_, fun later mem => ?_⟩
    · simpa [noViolation] using clean answer (.head _)
    · simpa [answers] using fixed
    · have remaining : later ∈ rest.take n := by simpa [answers] using mem
      exact clean later (List.mem_cons_of_mem _ remaining)

theorem State.Calm.memRead (h : s.Calm (n + 1)) (a : Word) : (s.memRead a).2.Calm n := by
  unfold State.memRead
  split
  · exact h.answered _ _
  · exact (h.mono (by omega)).congr (by simp) (by simp)

theorem State.Calm.memWrite (h : s.Calm (n + 1)) (a : Word) (v : Byte) : (s.memWrite a v).Calm n := by
  unfold State.memWrite
  split
  · exact h.answered _ _
  · exact h.mono (by omega)

theorem State.Calm.memRead16 (h : s.Calm (n + 2)) (a : Word) : (s.memRead16 a).2.Calm n :=
  (State.Calm.memRead h a).memRead (a + 1)

theorem State.Calm.setSp (h : s.Calm n) (v : Word) : (s.setSp v).Calm n := h

theorem State.Calm.setPc (h : s.Calm n) (v : Word) : (s.setPc v).Calm n := h

theorem State.Calm.push16 (h : s.Calm (n + 2)) (v : Word) : (s.push16 v).Calm n :=
  (((h.setSp (s.sp - 1)).memWrite (s.sp - 1) (hiByte v)).setSp _).memWrite _ _

theorem State.Calm.callProvider (h : s.Calm (n + 1)) : s.callProvider.2.Calm n := h.answered _ _

theorem State.Calm.takeInterrupt (h : s.Calm (n + 2)) (target : Word) (iff2 : Bool) :
    (s.takeInterrupt target iff2).Calm n := by
  have prologue : s.acceptPrologue.Calm (n + 2) := h.congr (by simp) (by simp)
  exact prologue.push16 _

/-- The poll asks for five answers at most, and for one where it accepts nothing. -/
theorem State.Calm.poll (h : s.Calm (n + 5)) :
    s.poll.1.Calm n ∧ (s.poll.2 = false → s.poll.1.Calm (n + 4)) := by
  have asked : s.callProvider.2.Calm (n + 4) := h.callProvider
  have declined : s.callProvider.2.Calm n ∧ (false = false → s.callProvider.2.Calm (n + 4)) :=
    ⟨asked.mono (by omega), fun _ => asked⟩
  have notAsked : s.Calm n ∧ (false = false → s.Calm (n + 4)) := ⟨h.mono (by omega), fun _ => h.mono (by omega)⟩
  have taken : (s.takeInterrupt 0x0038 false).Calm (n + 3) := h.takeInterrupt _ _
  have nmiTaken : s.acceptNmi.Calm (n + 3) := State.Calm.takeInterrupt h 0x0066 s.iff1
  unfold State.poll
  split
  · exact ⟨nmiTaken.mono (by omega), nofun⟩
  split
  swap
  · exact notAsked
  split
  · unfold State.acceptMode0
    simp only []
    split
    · split
      · split
        · exact ⟨(asked.takeInterrupt _ _).mono (by omega), nofun⟩
        · exact declined
      · exact declined
    · exact notAsked
  · unfold State.acceptMode1
    simp only []
    split
    · exact ⟨taken.callProvider.mono (by omega), nofun⟩
    · exact ⟨taken.mono (by omega), nofun⟩
  · unfold State.acceptMode2
    simp only []
    split
    · split
      · exact ⟨(asked.memRead16 _).takeInterrupt _ _, nofun⟩
      · exact declined
    · exact notAsked

theorem State.Calm.fetch8 (h : s.Calm (n + 1)) : s.fetch8.2.Calm n := State.Calm.memRead h _

theorem State.Calm.fetchBytes (k : Nat) (h : s.Calm (n + k)) : (State.fetchBytes k s).2.Calm n := by
  induction k generalizing s with
  | zero => exact h
  | succ k ih => exact ih (State.Calm.fetch8 h)

theorem State.Calm.countR (h : s.Calm n) (k : Nat) : (s.countR k).Calm n := h.congr (by simp) (by simp)

/-- The fetch asks for an answer a byte it looks at. -/
theorem State.fetchInstr_calm (s : State) :
    ∃ b0 b1 b2 b3, s.fetchInstr.1 = decodeBytes b0 b1 b2 b3 ∧
      ∀ n, s.Calm (n + bytesSeen b0 b1) → s.fetchInstr.2.Calm n := by
  unfold State.fetchInstr
  simp only []
  split
  · next map =>
    generalize length : instrLength s.fetch8.1 s.fetch8.2.fetch8.1 = k
    have rest (n : Nat) (h : s.Calm (n + max 2 k)) : (State.fetchBytes (k - 2) s.fetch8.2.fetch8.2).2.Calm n := by
      have prefixed : s.Calm (n + (k - 2) + 1 + 1) := h.mono (by omega)
      exact prefixed.fetch8.fetch8.fetchBytes _
    split
    · refine ⟨_, _, _, _, rfl, fun n h => ?_⟩
      rw [bytesSeen, if_pos map, length] at h
      exact ((rest n h).setPc _).countR 1
    · refine ⟨_, _, _, _, rfl, fun n h => ?_⟩
      rw [bytesSeen, if_pos map, length] at h
      exact (rest n h).countR 2
  · next base =>
    have base : selectsMap s.fetch8.1 = false := by simpa using base
    refine ⟨_, _, _, _, rfl, fun n h => ?_⟩
    rw [bytesSeen, base, if_neg Bool.false_ne_true] at h
    rw [instrLength_base base] at h ⊢
    have long := (baseLength_bounds s.fetch8.1).1
    have first : s.Calm (n + (baseLength s.fetch8.1 - 1) + 1) := h.mono (by omega)
    exact (first.fetch8.fetchBytes _).countR 1

/-- Every access is one event recorded and one answer at most. -/
theorem Accesses.calm {stored : List Word} {port : Bool} (h : Accesses stored port s t) (calm : s.Calm m)
    (events : t.trace.length + n ≤ s.trace.length + m) : t.Calm n := by
  induction h generalizing n with
  | refl => exact calm.mono (by omega)
  | registers _ same ih =>
    obtain ⟨-, -, -, -, -, -, violation, -, -, answers, trace, -⟩ := State.fields_of_outside_eq same
    exact (ih (trace ▸ events)).congr violation answers
  | read _ a ih => exact (ih (by simp at events; omega)).memRead a
  | write _ a v _ ih => exact (ih (by simp at events; omega)).memWrite a v
  | portRead _ a _ ih => exact (ih (by simp at events; omega) : State.Calm (n + 1) _).answered _ _
  | portWrite _ a v _ ih => exact (ih (by simp at events; omega) : State.Calm (n + 1) _).answered _ _

end

/-! ### How many accesses an instruction makes -/

/-- At most n accesses have been recorded since `s`. -/
def Within (n : Nat) (s t : State) : Prop := t.trace.length ≤ s.trace.length + n

section
variable {s t u : State} {n : Nat}

theorem Within.registers (h : Within n s t) (same : u.outside = t.outside) : Within n s u := by
  obtain ⟨-, -, -, -, -, -, -, -, -, -, trace, -⟩ := State.fields_of_outside_eq same
  rwa [Within, trace]

theorem Within.none (same : t.outside = s.outside) : Within n s t :=
  Within.registers (t := s) (Nat.le_add_right _ _) same

theorem Within.read (a : Word) : Within 2 s (s.memRead a).2 := by simp [Within]

theorem Within.read16 (a : Word) : Within 2 s (s.memRead16 a).2 := by simp [Within, State.memRead16]

theorem Within.readOpnd (o : Opnd8) : Within 2 s (s.readOpnd o).2 := by
  cases o <;> simp [Within, State.readOpnd]

theorem Within.pop : Within 2 s s.pop16.2 := by simp [Within, State.pop16]

theorem Within.write (a : Word) (v : Byte) : Within 2 s (s.memWrite a v) := by simp [Within]

theorem Within.write16 (a v : Word) : Within 2 s (s.memWrite16 a v) := by simp [Within, State.memWrite16]

theorem Within.push (v : Word) : Within 2 s (s.push16 v) := by simp [Within, State.push16_trace]

theorem Within.call (target : Word) : Within 2 s (s.call target) := (Within.push s.pc).registers rfl

theorem Within.rewrite (a : Word) (v : Byte) : Within 2 s ((s.memRead a).2.memWrite a v) := by simp [Within]

theorem Within.rewriteOpnd (o : Opnd8) (v : Byte) : Within 2 s ((s.readOpnd o).2.writeOpnd o v) := by
  cases o <;> simp [Within, State.readOpnd, State.writeOpnd]

theorem Within.modifyOpnd (change : Flags → Byte → Byte × Flags) (o : Opnd8) : Within 2 s (s.modifyOpnd change o) := by
  cases o <;> simp [Within, State.modifyOpnd, State.modifyMem]

theorem Within.ldStep (delta : Word) (repeats : Bool) : Within 2 s (s.ldStep delta repeats) := by
  simp [Within, State.ldStep]

theorem Within.inStep (delta : Word) (deltaC : Byte) (repeats : Bool) : Within 2 s (s.inStep delta deltaC repeats) := by
  simp [Within, State.inStep, State.ioBlockEnd]

theorem Within.outStep (delta : Word) (repeats : Bool) : Within 2 s (s.outStep delta repeats) := by
  simp [Within, State.outStep, State.ioBlockEnd]

theorem Within.exchangeTop (v : Word) : Within 4 s (s.exchangeTop v).2 := by
  simp [Within, State.exchangeTop, State.memRead16]

theorem Within.portRead (port : Word) : Within 2 s (s.ioRead port).2 := by simp [Within]

theorem Within.portWrite (port : Word) (v : Byte) : Within 2 s (s.ioWrite port v) := by simp [Within]

theorem Within.ite {c : Prop} [Decidable c] (ht : Within n s t) (hu : Within n s u) :
    Within n s (if c then t else u) := by
  split <;> assumption

end

/-- The exchanges with the top of the stack read and write a word, and no other instruction makes more than two accesses
(20_memory.md rule R38). -/
def mostAccesses : Instr → Nat
  | .exSpHl | .exSpIdx _ => 4
  | _ => 2

/-- The effect that `exec_outcome` speaks of takes at most so many accesses. -/
theorem exec_effect_within (i : Instr) (s : State) :
    ∃ t, (exec i s = if i.undocumented then s.undocumented i t else .next t) ∧ Within (mostAccesses i) s t := by
  cases i with
  -- No access.
  | nop | edUndefined | ignoredPrefix | exAfAf | exx | exDeHl | jr | jpHl | jpNn | jpIdx | ldRN | ldRR | ldSpHl
  | ldSpIdx | addHlRp | adcHlRp | sbcHlRp | rlca | rrca | rla | rra | daa | cpl | scf | ccf | neg | negDup | halt | di
  | ei | im0 | im1 | im2 | im0Dup | im1Dup | im2Dup | im01 | ldIA | ldRA | ldAI | ldAR | addAN | adcAN | subN | sbcAN
  | andN | xorN | orN | cpN | addAHalf | adcAHalf | subHalf | sbcAHalf | andHalf | xorHalf | orHalf | cpHalf =>
    exact ⟨_, rfl, .none rfl⟩
  | jrCc | jpCcNn | djnz => exact ⟨_, rfl, .none (State.outside_ite rfl rfl)⟩
  | ldRpNn | incRp | decRp => exact ⟨_, rfl, .none (State.outside_setPair _ _ _)⟩
  | ldIdxNn | incIdx | decIdx | addIdxRp => exact ⟨_, rfl, .none (State.outside_setIdx _ _ _)⟩
  | ldXX => exact ⟨_, rfl, .none (State.outside_setRegX _ _ _ _)⟩
  | ldHalfN => exact ⟨_, rfl, .none (State.outside_setHalf _ _ _ _)⟩
  | incHalf | decHalf => exact ⟨_, rfl, .none (State.outside_modifyHalf _ _ _ _)⟩
  -- Reads.
  | ldRHlMem | ldRIdxMem | ldARpMem | ldANnMem | addAIdxMem | adcAIdxMem | subIdxMem | sbcAIdxMem | andIdxMem
  | xorIdxMem | orIdxMem | cpIdxMem | bitIdxMem | bitIdxDup =>
    exact ⟨_, rfl, .registers (.read _) rfl⟩
  | addAR8 o | adcAR8 o | subR8 o | sbcAR8 o | andR8 o | xorR8 o | orR8 o | cpR8 o =>
    exact ⟨_, rfl, .registers (.readOpnd o) rfl⟩
  | bitR8 b o =>
    cases o
    case reg => exact ⟨_, rfl, .none rfl⟩
    case hlMem => exact ⟨_, rfl, .registers (.read _) rfl⟩
  | cpi | cpd | cpir | cpdr => exact ⟨_, rfl, .registers (.read s.hl) (by simp [State.cpStep])⟩
  | ldHlNnMem | ldHlNnMemEd | ldRpNnMem => exact ⟨_, rfl, .registers (.read16 _) (State.outside_setPair _ _ _)⟩
  | ldIdxNnMem => exact ⟨_, rfl, .registers (.read16 _) (State.outside_setIdx _ _ _)⟩
  | popRp2 => exact ⟨_, rfl, .registers .pop (State.outside_setPair2 _ _ _)⟩
  | popIdx => exact ⟨_, rfl, .registers .pop (State.outside_setIdx _ _ _)⟩
  | ret | retn | retnDup | reti => exact ⟨_, rfl, .registers .pop rfl⟩
  | retCc => exact ⟨_, rfl, .ite (.registers .pop rfl) (.none rfl)⟩
  -- Writes.
  | ldRpMemA | ldNnMemA | ldHlMemN | ldHlMemR | ldIdxMemN | ldIdxMemR => exact ⟨_, rfl, .write _ _⟩
  | ldNnMemHl | ldNnMemHlEd | ldNnMemRp | ldNnMemIdx => exact ⟨_, rfl, .write16 _ _⟩
  | pushRp2 | pushIdx => exact ⟨_, rfl, .push _⟩
  | callNn | rst => exact ⟨_, rfl, .call _⟩
  | callCcNn => exact ⟨_, rfl, .ite (.call _) (.none rfl)⟩
  -- A read, then a write.
  | incR8 | decR8 => exact ⟨_, rfl, .modifyOpnd _ _⟩
  | rlcR8 o | rrcR8 o | rlR8 o | rrR8 o | slaR8 o | sraR8 o | sllR8 o | srlR8 o | resR8 _ o | setR8 _ o =>
    exact ⟨_, rfl, .registers (.rewriteOpnd o _) rfl⟩
  | incIdxMem | decIdxMem | rlcIdxMem | rrcIdxMem | rlIdxMem | rrIdxMem | slaIdxMem | sraIdxMem | sllIdxMem | srlIdxMem
  | resIdxMem | setIdxMem | rlcIdxCopy | rrcIdxCopy | rlIdxCopy | rrIdxCopy | slaIdxCopy | sraIdxCopy | sllIdxCopy
  | srlIdxCopy | resIdxCopy | setIdxCopy | rrd | rld =>
    exact ⟨_, rfl, .registers (.rewrite _ _) rfl⟩
  | exSpHl => exact ⟨_, rfl, .registers (.exchangeTop _) rfl⟩
  | exSpIdx => exact ⟨_, rfl, .registers (.exchangeTop _) (State.outside_setIdx _ _ _)⟩
  | ldi | ldd | ldir | lddr => exact ⟨_, rfl, .ldStep _ _⟩
  -- Ports.
  | inAN | inRC | inFC => exact ⟨_, rfl, .registers (.portRead _) rfl⟩
  | outNA | outCR | outC0 => exact ⟨_, rfl, .portWrite _ _⟩
  | ini | ind | inir | indr => exact ⟨_, rfl, .inStep _ _ _⟩
  | outi | outd | otir | otdr => exact ⟨_, rfl, .outStep _ _⟩

theorem exec_within {i : Instr} {s t : State} (next : exec i s = .next t) : Within (mostAccesses i) s t := by
  obtain ⟨u, outcome, within⟩ := exec_effect_within i s
  rw [next] at outcome
  have same : t = u := by
    split at outcome
    · unfold State.undocumented at outcome
      split at outcome
      · cases outcome; rfl
      · cases outcome
    · cases outcome; rfl
  exact same ▸ within

theorem mostAccesses_cases (i : Instr) : mostAccesses i = 2 ∨ mostAccesses i = 4 ∧ i.encode.length ≤ 2 := by
  unfold mostAccesses
  split
  · exact .inr ⟨rfl, Nat.le_succ 1⟩
  · exact .inr ⟨rfl, Nat.le_refl 2⟩
  · exact .inl rfl

/-- The bytes the decoder looks at and the accesses the instruction makes are six at most. -/
theorem bytesSeen_add_mostAccesses_le (b0 b1 b2 b3 : Byte) :
    bytesSeen b0 b1 + mostAccesses (decodeBytes b0 b1 b2 b3) ≤ 6 := by
  rcases mostAccesses_cases (decodeBytes b0 b1 b2 b3) with two | ⟨four, short⟩
  · have := (bytesSeen_bounds b0 b1).2
    omega
  · rw [length_encode_decodeBytes] at short
    have : bytesSeen b0 b1 ≤ 2 := by unfold bytesSeen; split <;> omega
    omega

/-- The seven answers of a step: one for the poll, and six for the fetch and the instruction, or five for an
acceptance. -/
theorem not_stepViolated_of_quiet {s : State} (live : s.live) (quiet : s.quiet 7) : ¬ s.stepViolated := by
  obtain ⟨-, -, noViolation⟩ := live
  have calm : s.nextDraw.Calm (2 + 5) := ⟨noViolation, quiet⟩
  obtain ⟨polled, declined⟩ := calm.poll
  rintro (violated | ⟨declines, violated⟩)
  · exact violated polled.1
  · have running := declined declines
    generalize s.nextDraw.poll.1 = u at *
    obtain ⟨b0, b1, b2, b3, decoded, fetch⟩ := u.fetchInstr_calm
    have few := bytesSeen_add_mostAccesses_le b0 b1 b2 b3
    have fetched : u.fetchInstr.2.Calm (mostAccesses u.fetchInstr.1) := fetch _ (running.mono (by rw [decoded]; omega))
    rcases violated with violated | ⟨t, next, violated⟩
    · exact violated fetched.1
    · have ended : t.Calm 0 := (exec_accesses next).calm fetched (exec_within next)
      exact violated ended.1

/-- Settles O9: of the three ends of a step, a refusal needs `UNDOC_OPS = Refuse`, and a fault a forbidden call. -/
theorem everyInitialisedStepCompletes : Obligations.EveryInitialisedStepCompletes := by
  intro s live
  obtain ⟨t, next⟩ | ⟨violated, call, fault⟩ | ⟨refuses, pc, key, refused⟩ := step_cases live
  · simp [next]
  · have noisy : ¬ s.quiet 7 := fun quiet => not_stepViolated_of_quiet live quiet violated
    simp [fault, noisy]
  · simp [refused, refuses]

end Sys2Proof.Machine
end

section
/-!
PROOFS. The two fallbacks of the decoder as steps (30_encoding.md rules R65, R66): an instruction of one or two bytes
whose first byte selects a map, fetched from plain memory, that does nothing.
-/

namespace Sys2Proof.Machine

open Sys2Proof

/-! ### The poll that accepts nothing, and the fetch -/

theorem State.runsNext.poll {s : State} (runs : s.runsNext) : s.nextDraw.poll = (s.nextDraw, false) := by
  obtain ⟨-, latch, line, -⟩ := runs
  simp only [State.poll, State.nextDraw_fields, latch, line, Bool.false_eq_true, if_false]

/-- A fetch from plain memory: the byte there, the access recorded, PC past it. -/
theorem State.fetch8_plain {s : State} (plain : s.plainAt s.pc) :
    s.fetch8 = (s.byteAt s.pc, (s.logged (.memRead s.pc (s.byteAt s.pc))).setPc (s.pc + 1)) := by
  rw [State.fetch8, State.memRead_plain s plain]
  rfl

/-- What the fetch leaves after two bytes read of which n belong to the instruction: PC past those, and R advanced by as
many opcode fetches (R53, R65; 10_state.md rule R26). -/
def State.afterPrefixed (n : Nat) (s : State) : State :=
  State.countR n
    { s with
      pc := s.pc + BitVec.ofNat 16 n
      trace := .memRead (s.pc + 1) (s.byteAt (s.pc + 1)) :: .memRead s.pc (s.byteAt s.pc) :: s.trace }

theorem State.fetchInstr_prefixed {s : State} {n : Nat} (first : s.plainAt s.pc) (second : s.plainAt (s.pc + 1))
    (map : selectsMap (s.byteAt s.pc) = true) (length : instrLength (s.byteAt s.pc) (s.byteAt (s.pc + 1)) = n)
    (short : n = 1 ∨ n = 2) :
    s.fetchInstr = (decodeBytes (s.byteAt s.pc) (s.byteAt (s.pc + 1)) 0 0, s.afterPrefixed n) := by
  have next : State.fetch8 ((s.logged (.memRead s.pc (s.byteAt s.pc))).setPc (s.pc + 1)) =
      (s.byteAt (s.pc + 1), State.setPc (s.pc + 1 + 1) (((s.logged (.memRead s.pc (s.byteAt s.pc))).setPc
        (s.pc + 1)).logged (.memRead (s.pc + 1) (s.byteAt (s.pc + 1))))) :=
    State.fetch8_plain second
  unfold State.fetchInstr
  simp only [State.fetch8_plain first, map, if_true, next, length]
  refine short.elim (fun one => ?_) (fun two => ?_)
  · subst one
    have back : s.pc + BitVec.ofNat 16 1 = s.pc + 1 + 1 - 1 := by bv_omega
    rw [State.afterPrefixed, back]
    rfl
  · subst two
    have past : s.pc + BitVec.ofNat 16 2 = s.pc + 1 + 1 := by bv_omega
    rw [State.afterPrefixed, past]
    rfl

/-! ### The step -/

/-- What a no-op of n bytes after a map-selecting byte does: its fetch, and nothing else. -/
def PrefixedNoOp (n : Nat) (s t : State) : Prop :=
  t.pc = s.pc + BitVec.ofNat 16 n ∧
  t.trace = .memRead (s.pc + 1) (s.byteAt (s.pc + 1)) :: .memRead s.pc (s.byteAt s.pc) :: s.trace ∧
  (s.params.rModel = .count → t.r = advanceR s.r n) ∧ KeptOutside [.pc, .r] s t ∧ t.mem = s.mem ∧
  t.nmiLatch = s.nmiLatch ∧ t.intLine = s.intLine

theorem State.afterPrefixed_noOp (n : Nat) (s : State) : PrefixedNoOp n s (s.nextDraw.afterPrefixed n) := by
  refine ⟨?_, ?_, fun count => ?_, fun cell kept => ?_, ?_, ?_, ?_⟩
  case refine_3 => exact State.countR_r _ n count
  case refine_4 =>
    cases cell with
    | pc | r => simp at kept
    | _ => simp [State.cell, State.afterPrefixed]
  all_goals simp [State.afterPrefixed, State.byteAt]

/-- A step that decodes such a no-op is that fetch alone. -/
theorem step_prefixedNoOp {s : State} {n : Nat} {i : Instr} (runs : s.runsNext) (plain : s.plainFetch)
    (map : selectsMap (s.byteAt s.pc) = true) (decoded : decodeBytes (s.byteAt s.pc) (s.byteAt (s.pc + 1)) 0 0 = i)
    (length : i.encode.length = n) (short : n = 1 ∨ n = 2) (noOp : ∀ u, exec i u = .next u) :
    ∃ t, step s = .next t ∧ PrefixedNoOp n s t := by
  have first : s.plainAt s.pc := by simpa using plain 0 (by decide)
  have second : s.plainAt (s.pc + 1) := plain 1 (by decide)
  have fetched : s.nextDraw.fetchInstr = (i, s.nextDraw.afterPrefixed n) := by
    rw [← decoded, length_encode_decodeBytes] at length
    rw [← decoded]
    exact State.fetchInstr_prefixed first second map length short
  have polled := runs.poll
  obtain ⟨live, -, -, running⟩ := runs
  have noViolation : s.violation = none := live.2.2
  refine ⟨_, ?_, s.afterPrefixed_noOp n⟩
  rw [step_of_poll_declines live polled running noViolation, fetched, noOp]
  have after : (s.nextDraw.afterPrefixed n).violation = none := by simpa [State.afterPrefixed] using noViolation
  rw [State.unlessViolated_none _ after]
  simp only [endOfStep, after]

/-- Settles O19: such a byte decodes to `ignoredPrefix`, a no-op of one byte. -/
theorem ignoredPrefixIsOneByteLong : Obligations.IgnoredPrefixIsOneByteLong := by
  intro s i runs plain prefixByte ignored
  have map : selectsMap (s.byteAt s.pc) = true := by rw [prefixByte]; cases i <;> rfl
  have decoded : decodeBytes (s.byteAt s.pc) (s.byteAt (s.pc + 1)) 0 0 = .ignoredPrefix i := by
    rw [prefixByte, decodeBytes_idx, decodeIndexed_of_ignoredBy ignored]
  obtain ⟨t, next, noOp⟩ := step_prefixedNoOp runs plain map decoded rfl (.inl rfl) fun _ => rfl
  rw [PrefixedNoOp, prefixByte] at noOp
  exact ⟨t, next, noOp⟩

/-- Settles O20: such an op decodes to `edUndefined`, a no-op of two bytes. -/
theorem undefinedEdIsATwoByteNoOp : Obligations.UndefinedEdIsATwoByteNoOp := by
  intro s op runs plain edByte opByte undefined
  have map : selectsMap (s.byteAt s.pc) = true := by rw [edByte]; rfl
  have decoded : decodeBytes (s.byteAt s.pc) (s.byteAt (s.pc + 1)) 0 0 = .edUndefined op := by
    rw [edByte, opByte]
    exact decodeEd_undefined undefined _
  obtain ⟨t, next, noOp⟩ := step_prefixedNoOp runs plain map decoded rfl (.inr rfl) fun _ => rfl
  rw [PrefixedNoOp, edByte, opByte] at noOp
  exact ⟨t, next, noOp⟩

end Sys2Proof.Machine
end

section
/-!
PROOFS. The 8-bit loads and stores, the exchanges between registers, and the block transfers (40_load_exchange.md rules
R74 to R87, R102 to R104, R107 to R111).
-/

namespace Sys2Proof.Machine

open Sys2Proof

/-! ### Block transfer -/

/-- How a block transfer or compare ends (R107, R110, R112): every bit of F but Y and X is the flag function's, and Y
and X are too under Silicon if it does not repeat; PC goes back two bytes if it repeats. -/
theorem State.putFlags_repeatIf (s : State) (again : Bool) (f : Flags) :
    let t := (s.putFlags (bif again then Flags.maskXY else Flags.none) Flags.maskXY f).repeatIf again
    t.regs.f.s = f.s ∧ t.regs.f.z = f.z ∧ t.regs.f.h = f.h ∧ t.regs.f.pv = f.pv ∧ t.regs.f.n = f.n ∧
    t.regs.f.c = f.c ∧ (s.params.undocFlags = .silicon → ¬again → t.regs.f.y = f.y ∧ t.regs.f.x = f.x) ∧
    (again → t.pc = s.pc - 2) ∧ (¬again → t.pc = s.pc) := by
  cases again with
  | false =>
    obtain ⟨hs, hz, hh, hpv, hn, hc, hxy⟩ := s.putXY_flags f
    exact ⟨hs, hz, hh, hpv, hn, hc, fun silicon _ => hxy silicon, nofun, fun _ => rfl⟩
  | true =>
    cases undoc : s.params.undocFlags <;>
      simp [State.drawMask, undoc, Flags.mix, Flags.union, Flags.maskXY, Flags.none]

/-- A counter is not 0 after its decrement exactly when it was not 1 before. -/
theorem word_pred_bne_zero (w : Word) : (w - 1 != 0) = decide (w ≠ 1) := by
  have pred : w - 1 = 0 ↔ w = 1 := by bv_omega
  rw [Bool.eq_iff_iff, bne_iff_ne, decide_eq_true_iff, ne_eq, pred]

/-- All four instructions are this one operation: a read at HL, a write at DE, and changes of registers. -/
theorem State.ldStep_moved (s : State) (delta : Word) (repeats : Bool) :
    BlockMoved delta repeats s (s.ldStep delta repeats) := by
  obtain ⟨-, read⟩ := s.memRead_loaded s.hl
  obtain ⟨-, stored⟩ := (s.memRead s.hl).2.memWrite_stored s.de (s.memRead s.hl).1
  rw [State.plainAt_congr (s := s) (by simp)] at stored
  unfold State.ldStep
  extract_lets v s1 s2 again
  have regs : s1.regs = s.regs := by simp [s1, v]
  have flags : s2.regs.f = s.regs.f := by simp [s2, regs]
  have acc : s2.regs.a = s.regs.a := by simp [s2, regs]
  have bc : s2.bc = s.bc - 1 := by simp [s2, State.bc, regs]
  have params : s2.params = s.params := by simp [s2, s1, v]
  have pc : s2.pc = s.pc := by simp [s2, s1, v]
  have repeating : again = true ↔ repeats = true ∧ s.bc ≠ 1 := by
    rw [Bool.and_eq_true, bc, word_pred_bne_zero, decide_eq_true_iff]
  rw [flags, acc, bc]
  obtain ⟨hs, hz, hh, hpv, hn, hc, hxy, back, on⟩ :=
    s2.putFlags_repeatIf again (ldBlockFlags s.regs.f s.regs.a v.1 (s.bc - 1))
  rw [repeating, params] at hxy
  rw [repeating, pc] at back on
  refine ⟨v.1, ?trace, read, fun plain => ?stored, ?hl, ?de, ?bc, hh, hn, hpv.trans (word_pred_bne_zero _), hxy, hs, hz,
    hc, ?acc, back, on⟩
  case trace => simp [s2, s1, v]
  case stored => simpa [s2, State.byteAt] using stored plain
  case hl => simp [s2, State.hl, regs]
  case de => simp [s2, State.de, regs]
  case bc => simpa [State.bc] using bc
  case acc => simpa using acc

/-- Settles O31: each instruction is one `ldStep`. -/
theorem blockTransferMovesOneByte : Obligations.BlockTransferMovesOneByte := by
  intro s
  exact ⟨⟨_, rfl, s.ldStep_moved 1 false⟩, ⟨_, rfl, s.ldStep_moved (-1) false⟩, ⟨_, rfl, s.ldStep_moved 1 true⟩,
    ⟨_, rfl, s.ldStep_moved (-1) true⟩⟩

/-! ### The 8-bit loads and stores -/

/-- A load of `r8[k]` from memory is one read, whatever the address. -/
theorem State.loadReg_loaded (s : State) (y : Reg8) (a : Word) :
    Loaded a (((s.memRead a).2.setReg y (s.memRead a).1).reg y) s ((s.memRead a).2.setReg y (s.memRead a).1) := by
  rw [State.reg_setReg]
  exact s.memRead_loaded a

/-- Settles O22: every load from memory is one read put into `r8[k]`, A being `r8[7]`. -/
theorem byteLoadsFillTheRegister : Obligations.ByteLoadsFillTheRegister := by
  intro s
  exact ⟨fun y z => ⟨_, rfl, s.reg_setReg y _, rfl⟩, fun y n => ⟨_, rfl, s.reg_setReg y n, rfl⟩,
    fun y => ⟨_, rfl, s.loadReg_loaded y s.hl⟩, fun y i d => ⟨_, rfl, s.loadReg_loaded y _⟩,
    ⟨_, rfl, s.loadReg_loaded .a s.bc⟩, ⟨_, rfl, s.loadReg_loaded .a s.de⟩, fun nn => ⟨_, rfl, s.loadReg_loaded .a nn⟩⟩

/-- Settles O23: every form is one `memWrite`. -/
theorem byteStoresFillTheByte : Obligations.ByteStoresFillTheByte := by
  intro s
  exact ⟨fun z => ⟨_, rfl, s.memWrite_stored s.hl _⟩, fun i d z => ⟨_, rfl, s.memWrite_stored _ _⟩,
    fun n => ⟨_, rfl, s.memWrite_stored s.hl n⟩, fun i d n => ⟨_, rfl, s.memWrite_stored _ n⟩,
    ⟨_, rfl, s.memWrite_stored s.bc _⟩, ⟨_, rfl, s.memWrite_stored s.de _⟩, fun nn => ⟨_, rfl, s.memWrite_stored nn _⟩⟩

/-! ### The halves of the index registers -/

@[simp] theorem State.half_setHalf_same (s : State) (i : Idx) (h : Half) (v : Byte) :
    (s.setHalf i h v).half i h = v := by
  cases h <;> simp [State.setHalf, State.half]

theorem State.half_setHalf_other (s : State) (i : Idx) {h k : Half} (v : Byte) (other : k ≠ h) :
    (s.setHalf i h v).half i k = s.half i k := by
  cases h <;> cases k <;> simp [State.setHalf, State.half] at other ⊢

@[simp] theorem State.regX_setRegX (s : State) (i : Idx) (x : RegX) (v : Byte) : (s.setRegX i x v).regX i x = v := by
  cases x with
  | idxH => exact s.half_setHalf_same i .hi v
  | idxL => exact s.half_setHalf_same i .lo v
  | b | c | d | e | a => rfl

/-- A half of the index register changes only as the destination. -/
theorem State.half_setRegX_other (s : State) (i : Idx) (x : RegX) (v : Byte) :
    (x ≠ .idxH → (s.setRegX i x v).half i .hi = s.half i .hi) ∧
    (x ≠ .idxL → (s.setRegX i x v).half i .lo = s.half i .lo) := by
  cases x with
  | idxH => exact ⟨fun h => absurd rfl h, fun _ => s.half_setHalf_other i (h := .hi) v (by decide)⟩
  | idxL => exact ⟨fun _ => s.half_setHalf_other i (h := .lo) v (by decide), fun h => absurd rfl h⟩
  | b | c | d | e | a => exact ⟨fun _ => rfl, fun _ => rfl⟩

/-- Settles O24: the two forms are one write of `r8x[k]` and one write of a half. -/
theorem halfLoadsKeepTheOtherHalf : Obligations.HalfLoadsKeepTheOtherHalf := by
  intro s i silicon
  exact ⟨fun y z => ⟨_, State.undocumented_silicon _ _ silicon, s.regX_setRegX i y _, s.half_setRegX_other i y _⟩,
    fun n => ⟨_, State.undocumented_silicon _ _ silicon, s.half_setHalf_same i .hi n,
      s.half_setHalf_other i n (by decide)⟩,
    fun n => ⟨_, State.undocumented_silicon _ _ silicon, s.half_setHalf_same i .lo n,
      s.half_setHalf_other i n (by decide)⟩⟩

/-! ### The exchanges between registers -/

/-- The encodings (R102 to R104); the `DD` and `FD` maps have no `EB`, so either byte before it is ignored (R65). -/
theorem exchange_encodings (b1 b2 b3 : Byte) :
    decodeBytes 0xEB b1 b2 b3 = .exDeHl ∧ decodeBytes 0x08 b1 b2 b3 = .exAfAf ∧ decodeBytes 0xD9 b1 b2 b3 = .exx ∧
      ∀ i : Idx, decodeBytes i.code 0xEB b2 b3 = .ignoredPrefix i :=
  ⟨rfl, rfl, rfl, fun i => (decodeBytes_idx i 0xEB b2 b3).trans (decodeIndexed_of_ignoredBy rfl i b2 b3)⟩

theorem exec_exDeHl_kept {s t : State} (next : exec .exDeHl s = .next t) : KeptOutside Instr.exDeHl.writes s t := by
  cases next
  intro cell kept
  cases cell with
  | reg r =>
    cases r with
    | d | e | h | l => simp [Instr.writes] at kept
    | a | b | c => rfl
  | _ => rfl

theorem exec_exAfAf_kept {s t : State} (next : exec .exAfAf s = .next t) : KeptOutside Instr.exAfAf.writes s t := by
  cases next
  intro cell kept
  cases cell with
  | reg r | altReg r =>
    cases r with
    | a => simp [Instr.writes] at kept
    | b | c | d | e | h | l => rfl
  | flag f | altFlag f => cases f <;> simp [Instr.writes, allFlags] at kept
  | _ => rfl

theorem exec_exx_kept {s t : State} (next : exec .exx s = .next t) : KeptOutside Instr.exx.writes s t := by
  cases next
  intro cell kept
  cases cell with
  | reg r | altReg r =>
    cases r with
    | b | c | d | e | h | l => simp [Instr.writes] at kept
    | a => rfl
  | _ => rfl

/-- Settles O29: each exchange permutes the cells it names, so the equations and the return are by evaluation. -/
theorem exchangesSwapTheDesignatedCells : Obligations.ExchangesSwapTheDesignatedCells := by
  refine ⟨exchange_encodings, fun s => ⟨?_, ?_, ?_⟩⟩
  · exact ⟨_, rfl, rfl, rfl, exec_exDeHl_kept rfl, rfl⟩
  · exact ⟨_, rfl, rfl, rfl, rfl, rfl, exec_exAfAf_kept rfl, rfl⟩
  · exact ⟨_, rfl, rfl, rfl, rfl, rfl, rfl, rfl, exec_exx_kept rfl, rfl⟩

end Sys2Proof.Machine
end

section
/-!
PROOFS. 8- and 16-bit arithmetic and logic, the accumulator and flag operations, and block compare (41_arith_logic.md
rules R112 to R149). `HasFlags` says that F is what a flag function gives; each group of instructions is first shown to
leave that, and the spec's arithmetic of the flag function is a lemma of its own.
-/

namespace Sys2Proof.Machine

open Sys2Proof

/-! ### Bits of a number -/

theorem byte_lowDigit (v : Byte) : (v &&& 0x0F).toNat = v.toNat % 16 := by
  rw [BitVec.toNat_and]
  exact Nat.and_two_pow_sub_one_eq_mod v.toNat 4

theorem word_lowTwelve (v : Word) : (v &&& 0x0FFF).toNat = v.toNat % 0x1000 := by
  rw [BitVec.toNat_and]
  exact Nat.and_two_pow_sub_one_eq_mod v.toNat 12

theorem byte_topBit (v : Byte) : v.getLsbD 7 = decide (128 ≤ v.toNat) :=
  BitVec.msb_eq_decide v

theorem parity_eq_evenOnes (v : Byte) : parity v = evenOnes v := by
  revert v
  decide +kernel

/-! ### F as a flag function gives it -/

/-- F in `t` is `f`, but for Y and X where they are draws (R112). -/
def HasFlags (f : Flags) (s t : State) : Prop :=
  t.regs.f.s = f.s ∧ t.regs.f.z = f.z ∧ t.regs.f.h = f.h ∧ t.regs.f.pv = f.pv ∧ t.regs.f.n = f.n ∧ t.regs.f.c = f.c ∧
  (s.params.undocFlags = .silicon → t.regs.f.y = f.y ∧ t.regs.f.x = f.x)

theorem State.hasFlags_of_putXY {s t u : State} {f : Flags} (params : u.params = s.params)
    (flags : t.regs.f = (u.putXY f).regs.f) : HasFlags f s t := by
  rw [HasFlags, flags, ← params]
  exact u.putXY_flags f

/-- Overflow of a sum, as the flag functions test it. -/
theorem beq_and_bne (a b r : Bool) : (a == b && r != a) = decide (a = b ∧ r ≠ a) := by
  revert a b r
  decide

/-- Overflow of a difference, as the flag functions test it. -/
theorem bne_and_bne (a b r : Bool) : (a != b && r != a) = decide (a ≠ b ∧ r ≠ a) := by
  revert a b r
  decide

theorem add8_toNat (a b : Byte) (c : Bool) : (add8 a b c).1.toNat = (a.toNat + b.toNat + c.toNat) % 256 :=
  BitVec.toNat_ofNat ..

theorem sub8_toNat (a b : Byte) (c : Bool) :
    ((sub8 a b c).1.toNat : Int) = ((a.toNat : Int) - b.toNat - c.toNat) % 256 := by
  simp only [sub8, BitVec.toNat_sub, BitVec.toNat_ofNat]
  have := c.toNat_lt
  omega

theorem HasFlags.addFlags {a b : Byte} {c : Bool} {s t : State} (h : HasFlags (add8 a b c).2 s t) :
    AddFlags a b c (add8 a b c).1 s t := by
  obtain ⟨hs, hz, hh, hpv, hn, hc, hxy⟩ := h
  rw [AddFlags, byte_lowDigit, byte_lowDigit]
  exact ⟨add8_toNat a b c, hs, hz, hh, hpv.trans (beq_and_bne ..), hn, hc, hxy⟩

theorem HasFlags.subFlags {a b w : Byte} {c : Bool} {s t : State} (h : HasFlags ((sub8 a b c).2.withXY w) s t) :
    SubFlags a b c (sub8 a b c).1 t ∧ XyOf w s t := by
  obtain ⟨hs, hz, hh, hpv, hn, hc, hxy⟩ := h
  rw [SubFlags, byte_lowDigit, byte_lowDigit]
  exact ⟨⟨sub8_toNat a b c, hs, hz, hh, hpv.trans (bne_and_bne ..), hn, hc⟩, hxy⟩

theorem HasFlags.logicFlags {r : Byte} {h : Bool} {s t : State} (has : HasFlags (logicFlags r h) s t) :
    LogicFlags r h s t := by
  obtain ⟨hs, hz, hh, hpv, hn, hc, hxy⟩ := has
  exact ⟨⟨hs, hz, hpv.trans (parity_eq_evenOnes r)⟩, hh, hn, hc, hxy⟩

/-- The signed sum overflows exactly when its sign is not that of two summands of one sign. -/
theorem AddFlags.overflow {a b r : Byte} {c : Bool} {s t : State} (h : AddFlags a b c r s t) :
    t.regs.f.pv = true ↔ a.toInt + b.toInt + c.toNat < -128 ∨ 127 < a.toInt + b.toInt + c.toNat := by
  obtain ⟨sum, -, -, -, pv, -⟩ := h
  have carry := c.toNat_lt
  rw [pv, decide_eq_true_iff]
  simp only [byte_topBit, ne_eq, decide_eq_decide, BitVec.toInt_eq_toNat_cond]
  omega

/-- The signed difference overflows exactly when its sign is not that of a minuend of the other sign. -/
theorem SubFlags.overflow {a b r : Byte} {c : Bool} {t : State} (h : SubFlags a b c r t) :
    t.regs.f.pv = true ↔ a.toInt - b.toInt - c.toNat < -128 ∨ 127 < a.toInt - b.toInt - c.toNat := by
  obtain ⟨difference, -, -, -, pv, -⟩ := h
  have carry := c.toNat_lt
  rw [pv, decide_eq_true_iff]
  simp only [byte_topBit, ne_eq, decide_eq_decide, BitVec.toInt_eq_toNat_cond]
  omega

/-! ### The operand forms (R123) -/

theorem Executes.silicon {i : Instr} {s : State} (executes : Executes i s) (gated : i.undocumented = true) :
    s.params.undocOps = .silicon :=
  executes.resolve_left (by simp [gated])

/-- What an operation writes to A and F, from A, C and the second operand (R124 to R131). -/
def AluOp.result (op : AluOp) (a : Byte) (c : Bool) (v : Byte) : Byte × Flags :=
  match op with
  | .add => add8 a v false
  | .adc => add8 a v c
  | .sub => sub8 a v false
  | .sbc => sub8 a v c
  | .and => (a &&& v, logicFlags (a &&& v) true)
  | .xor => (a ^^^ v, logicFlags (a ^^^ v) false)
  | .or => (a ||| v, logicFlags (a ||| v) false)
  | .cp => (a, (sub8 a v false).2.withXY v)

/-- The read of the second operand. -/
def AluForm.read (form : AluForm) (s : State) : Byte × State :=
  match form with
  | .opnd o => s.readOpnd o
  | .imm n => (n, s)
  | .idxMem i d => s.memRead (s.indexed i d)
  | .half i h => (s.half i h, s)

theorem AluForm.read_fields (form : AluForm) (s : State) :
    (form.read s).2.regs = s.regs ∧ (form.read s).2.params = s.params := by
  cases form <;> simp [AluForm.read]

theorem AluForm.operandIs_read {form : AluForm} {s t : State} (trace : t.trace = (form.read s).2.trace) :
    form.operandIs (form.read s).1 s t := by
  cases form with
  | opnd o =>
    cases o with
    | reg r => exact ⟨rfl, trace⟩
    | hlMem => exact (s.memRead_loaded s.hl).congr trace
  | imm n => exact ⟨rfl, trace⟩
  | idxMem i d => exact (s.memRead_loaded (s.indexed i d)).congr trace
  | half i h => exact ⟨rfl, trace⟩

/-- Every operation in every form reads the second operand, then writes A and F; `CP` puts back the A it found. -/
theorem exec_alu {op : AluOp} {form : AluForm} {s : State} (executes : Executes (form.instr op) s) :
    let v := form.read s
    let r := op.result v.2.regs.a v.2.regs.f.c v.1
    exec (form.instr op) s = .next ((v.2.putXY r.2).setA r.1) := by
  cases form with
  | opnd | imm | idxMem => cases op <;> rfl
  | half i h =>
    have effect (j : Instr) (t : State) (gated : (AluForm.half i h |>.instr op).undocumented = true) :=
      State.undocumented_silicon j t (executes.silicon gated)
    cases op <;> exact effect _ _ rfl

/-- What an arithmetic or logic instruction does. -/
theorem exec_alu_writes {op : AluOp} {form : AluForm} {s : State} (executes : Executes (form.instr op) s) :
    ∃ t v, exec (form.instr op) s = .next t ∧ form.operandIs v s t ∧
      t.regs.a = (op.result s.regs.a s.regs.f.c v).1 ∧ HasFlags (op.result s.regs.a s.regs.f.c v).2 s t := by
  obtain ⟨regs, params⟩ := form.read_fields s
  have next := exec_alu executes
  simp only [regs] at next
  exact ⟨_, _, next, AluForm.operandIs_read (by simp), by simp, State.hasFlags_of_putXY params (by simp)⟩

/-- Settles O32: the flags of `add8`, whose carry in is 0 for `ADD`. -/
theorem addWritesTheSum : Obligations.AddWritesTheSum := by
  intro s form
  refine ⟨fun executes => ?_, fun executes => ?_⟩
  · obtain ⟨t, v, next, operand, acc, flags⟩ := exec_alu_writes executes
    have sum := acc ▸ flags.addFlags
    exact ⟨t, v, next, operand, sum, by simpa using sum.overflow⟩
  · obtain ⟨t, v, next, operand, acc, flags⟩ := exec_alu_writes executes
    have sum := acc ▸ flags.addFlags
    exact ⟨t, v, next, operand, sum, sum.overflow⟩

/-- Settles O33: the flags of `sub8`, with Y and X of the result, or of the operand for `CP`. -/
theorem subtractWritesTheDifference : Obligations.SubtractWritesTheDifference := by
  intro s form
  refine ⟨fun executes => ?_, fun executes => ?_, fun executes => ?_⟩
  · obtain ⟨t, v, next, operand, acc, flags⟩ := exec_alu_writes executes
    obtain ⟨difference, xy⟩ := flags.subFlags
    exact ⟨t, v, next, operand, acc ▸ difference, acc ▸ xy, by simpa using difference.overflow⟩
  · obtain ⟨t, v, next, operand, acc, flags⟩ := exec_alu_writes executes
    obtain ⟨difference, xy⟩ := flags.subFlags
    exact ⟨t, v, next, operand, acc ▸ difference, acc ▸ xy, difference.overflow⟩
  · obtain ⟨t, v, next, operand, acc, flags⟩ := exec_alu_writes executes
    obtain ⟨difference, xy⟩ := flags.subFlags
    exact ⟨t, v, _, next, operand, acc, difference, xy⟩

/-- Settles O34: A is the bitwise result that the flags of `logic` are of. -/
theorem logicWritesTheBitwiseResult : Obligations.LogicWritesTheBitwiseResult := by
  intro s form
  refine ⟨fun executes => ?_, fun executes => ?_, fun executes => ?_⟩
  · obtain ⟨t, v, next, operand, acc, flags⟩ := exec_alu_writes executes
    exact ⟨t, v, next, operand, fun _ => acc ▸ BitVec.getLsbD_and, acc ▸ flags.logicFlags⟩
  · obtain ⟨t, v, next, operand, acc, flags⟩ := exec_alu_writes executes
    exact ⟨t, v, next, operand, fun _ => acc ▸ BitVec.getLsbD_xor, acc ▸ flags.logicFlags⟩
  · obtain ⟨t, v, next, operand, acc, flags⟩ := exec_alu_writes executes
    exact ⟨t, v, next, operand, fun _ => acc ▸ BitVec.getLsbD_or, acc ▸ flags.logicFlags⟩

/-! ### `INC` and `DEC` (R132, R133) -/

theorem HasFlags.incFlags {v : Byte} {s t : State} (h : HasFlags (inc8 s.regs.f v).2 s t) :
    IncFlags v (inc8 s.regs.f v).1 s t := by
  obtain ⟨hs, hz, hh, hpv, hn, hc, hxy⟩ := h
  have digit : (v.toNat % 16 == 15) = decide (v &&& 0x0F = 0x0F) := by
    rw [← byte_lowDigit, beq_eq_decide, decide_eq_decide]
    exact BitVec.toNat_inj (y := (0x0F : Byte))
  exact ⟨BitVec.toNat_add .., hs, hz, hh.trans digit, hpv, hn, hc, hxy⟩

theorem HasFlags.decFlags {v : Byte} {s t : State} (h : HasFlags (dec8 s.regs.f v).2 s t) :
    DecFlags v (dec8 s.regs.f v).1 s t := by
  obtain ⟨hs, hz, hh, hpv, hn, hc, hxy⟩ := h
  have digit : (v.toNat % 16 == 0) = decide (v &&& 0x0F = 0x00) := by
    rw [← byte_lowDigit, beq_eq_decide, decide_eq_decide]
    exact BitVec.toNat_inj (y := (0x00 : Byte))
  have less : (v - 1).toNat = (v.toNat + 255) % 256 := by bv_omega
  exact ⟨less, hs, hz, hh.trans digit, hpv, hn, hc, hxy⟩

/-- `change` made of the operand and F what it gives, with the accesses of the form. -/
def RmwForm.changed (form : RmwForm) (change : Flags → Byte → Byte × Flags) (s t : State) : Prop :=
  ∃ v, form.replaced v (change s.regs.f v).1 s t ∧ HasFlags (change s.regs.f v).2 s t

theorem State.modifyReg_changed (s : State) (change : Flags → Byte → Byte × Flags) (q : Reg8) :
    (RmwForm.reg q).changed change s (s.modifyOpnd change (.reg q)) := by
  refine ⟨s.reg q, ⟨rfl, ?_, rfl⟩, State.hasFlags_of_putXY (u := s.setReg q _) rfl rfl⟩
  exact s.reg_setReg q _

theorem State.memRead_memWrite_modified (s : State) (a : Word) (r : Byte) :
    Modified a (s.memRead a).1 r s ((s.memRead a).2.memWrite a r) := by
  obtain ⟨-, read⟩ := s.memRead_loaded a
  obtain ⟨-, stored⟩ := (s.memRead a).2.memWrite_stored a r
  rw [State.plainAt_congr (s := s) (by simp)] at stored
  exact ⟨by simp, fun plain => ⟨read plain, stored plain⟩⟩

/-- A memory operand is read, then written at the same address. -/
theorem State.modifyMem_changed (s : State) (change : Flags → Byte → Byte × Flags) (a : Word) :
    ∃ v, Modified a v (change s.regs.f v).1 s (s.modifyMem change a) ∧
      HasFlags (change s.regs.f v).2 s (s.modifyMem change a) := by
  have flags : (s.memRead a).2.regs.f = s.regs.f := by simp
  unfold State.modifyMem
  simp only [flags]
  exact ⟨(s.memRead a).1, s.memRead_memWrite_modified a _, State.hasFlags_of_putXY (by simp) rfl⟩

theorem State.modifyHalf_changed (s : State) (change : Flags → Byte → Byte × Flags) (i : Idx) (h : Half) :
    (RmwForm.half i h).changed change s (s.modifyHalf change i h) := by
  refine ⟨s.half i h, ⟨rfl, s.half_setHalf_same i h _, fun g other => s.half_setHalf_other i _ other, ?_⟩,
    State.hasFlags_of_putXY (u := s.setHalf i h _) (by simp) rfl⟩
  simp [State.modifyHalf]

/-- Either instruction in every form it has. -/
theorem exec_incDec_changed {change : Flags → Byte → Byte × Flags} {form : RmwForm} {i : Instr} {s : State}
    (named : form.inc = some i ∧ change = inc8 ∨ form.dec = some i ∧ change = dec8) (executes : Executes i s) :
    ∃ t, exec i s = .next t ∧ form.changed change s t := by
  cases form with
  | reg q => rcases named with ⟨⟨⟩, rfl⟩ | ⟨⟨⟩, rfl⟩ <;> exact ⟨_, rfl, s.modifyReg_changed _ q⟩
  | hlMem => rcases named with ⟨⟨⟩, rfl⟩ | ⟨⟨⟩, rfl⟩ <;> exact ⟨_, rfl, s.modifyMem_changed _ s.hl⟩
  | idxMem j d => rcases named with ⟨⟨⟩, rfl⟩ | ⟨⟨⟩, rfl⟩ <;> exact ⟨_, rfl, s.modifyMem_changed _ (s.indexed j d)⟩
  | half j h =>
    rcases named with ⟨⟨⟩, rfl⟩ | ⟨⟨⟩, rfl⟩ <;>
      exact ⟨_, State.undocumented_silicon _ _ (executes.silicon rfl), s.modifyHalf_changed _ j h⟩
  | idxCopy j d z => rcases named with ⟨⟨⟩, -⟩ | ⟨⟨⟩, -⟩

/-- Settles O35: each form replaces its operand by what `inc8` or `dec8` gives. -/
theorem incrementAndDecrementReplaceTheByte : Obligations.IncrementAndDecrementReplaceTheByte := by
  intro s form i
  refine ⟨fun named executes => ?_, fun named executes => ?_⟩
  · obtain ⟨t, next, v, replaced, flags⟩ := exec_incDec_changed (.inl ⟨named, rfl⟩) executes
    exact ⟨t, v, _, next, replaced, flags.incFlags⟩
  · obtain ⟨t, next, v, replaced, flags⟩ := exec_incDec_changed (.inr ⟨named, rfl⟩) executes
    exact ⟨t, v, _, next, replaced, flags.decFlags⟩

/-! ### `DAA` (R134) -/

/-- The correction is added or subtracted as a number: its two halves share no bit. -/
theorem daaCorrection_toNat (low high : Bool) :
    ((bif low then 0x06 else 0x00) ||| (bif high then 0x60 else 0x00) : Byte).toNat =
      (if low then 0x06 else 0x00) + if high then 0x60 else 0x00 := by
  revert low high
  decide

/-- The result of `DAA`, in the numbers of its table. -/
theorem daa_toNat (f : Flags) (a : Byte) :
    let low := if f.h = true ∨ a.toNat % 16 > 9 then 0x06 else 0x00
    let high := if f.c = true ∨ a.toNat > 0x99 then 0x60 else 0x00
    (f.n = false → (daa f a).1.toNat = (a.toNat + low + high) % 256) ∧
    (f.n = true → (daa f a).1.toNat = (a.toNat + 256 - low - high) % 256) := by
  intro low high
  have correction := daaCorrection_toNat (f.h || decide (a.toNat % 16 > 9)) (f.c || decide (a.toNat > 0x99))
  simp only [Bool.or_eq_true, decide_eq_true_eq] at correction
  have small : low + high < 256 := by
    unfold low high
    split <;> split <;> decide
  refine ⟨fun add => ?_, fun sub => ?_⟩
  · simp only [daa, add, cond_false, BitVec.toNat_add, correction]
    show (a.toNat + (low + high)) % 256 = _
    omega
  · simp only [daa, sub, cond_true, BitVec.toNat_sub, correction]
    show (256 - (low + high) + a.toNat) % 256 = _
    omega

/-- Settles O36: A is the corrected byte, and F that of `daa`. -/
theorem decimalAdjustFollowsItsTable : Obligations.DecimalAdjustFollowsItsTable := by
  intro s
  obtain ⟨hs, hz, hh, hpv, hn, hc, hxy⟩ := s.putXY_flags (daa s.regs.f s.regs.a).2
  obtain ⟨added, subtracted⟩ := daa_toNat s.regs.f s.regs.a
  refine ⟨_, rfl, fun add => ⟨added add, ?_⟩, fun sub => ⟨subtracted sub, ?_⟩,
    ⟨hs, hz, hpv.trans (parity_eq_evenOnes _)⟩, hc, hn, hxy⟩
  · exact hh.trans (by rw [daa, add]; rfl)
  · exact hh.trans (by rw [daa, sub]; rfl)

theorem packedBcd_toNat {n : Nat} (h : n < 100) : (packedBcd n).toNat = n / 10 * 16 + n % 10 := by
  rw [packedBcd, BitVec.toNat_ofNat]
  omega

/-- Each half of the correction is added exactly when its decimal digit carries. -/
theorem daa_after_add {s t u : State} {x y : Nat} {c : Bool} (hx : x < 100) (hy : y < 100)
    (sum : AddFlags (packedBcd x) (packedBcd y) c t.regs.a s t) (next : exec .daa t = .next u) :
    u.regs.a = packedBcd ((x + y + c.toNat) % 100) ∧ u.regs.f.c = decide (x + y + c.toNat ≥ 100) := by
  obtain ⟨acc, -, -, half, -, add, carry, -⟩ := sum
  obtain ⟨_, next', table⟩ := decimalAdjustFollowsItsTable t
  cases next.symm.trans next'
  obtain ⟨adjusted, -, -, carry', -, -⟩ := table
  obtain ⟨adjusted, -⟩ := adjusted add
  have bit := c.toNat_lt
  simp only [byte_lowDigit, packedBcd_toNat hx, packedBcd_toNat hy] at acc half carry
  have low : t.regs.f.h = true ∨ t.regs.a.toNat % 16 > 9 ↔ x % 10 + y % 10 + c.toNat ≥ 10 := by
    rw [half, decide_eq_true_iff]
    omega
  -- The binary sum may carry out of the byte; which of the two it is settles the high digit.
  have wrapped : t.regs.a.toNat = 16 * (x / 10 + y / 10) + (x % 10 + y % 10 + c.toNat) ∨
      t.regs.a.toNat + 256 = 16 * (x / 10 + y / 10) + (x % 10 + y % 10 + c.toNat) := by omega
  have high : t.regs.f.c = true ∨ t.regs.a.toNat > 0x99 ↔ x + y + c.toNat ≥ 100 := by
    rw [carry, decide_eq_true_iff]
    omega
  simp only [low, high] at adjusted
  refine ⟨BitVec.eq_of_toNat_eq ?_, ?_⟩
  · rw [adjusted, packedBcd_toNat (Nat.mod_lt _ (by decide))]
    split <;> split <;> omega
  · rw [carry', Bool.eq_iff_iff, Bool.or_eq_true, decide_eq_true_iff, decide_eq_true_iff]
    exact high

/-- Each half of the correction is subtracted exactly when its decimal digit borrows. -/
theorem daa_after_sub {t u : State} {x y : Nat} {c : Bool} (hx : x < 100) (hy : y < 100)
    (difference : SubFlags (packedBcd x) (packedBcd y) c t.regs.a t) (next : exec .daa t = .next u) :
    u.regs.a = packedBcd ((x + 100 - y - c.toNat) % 100) ∧ u.regs.f.c = decide (x < y + c.toNat) := by
  obtain ⟨acc, -, -, half, -, sub, carry⟩ := difference
  obtain ⟨_, next', table⟩ := decimalAdjustFollowsItsTable t
  cases next.symm.trans next'
  obtain ⟨-, adjusted, -, carry', -, -⟩ := table
  obtain ⟨adjusted, -⟩ := adjusted sub
  have bit := c.toNat_lt
  simp only [byte_lowDigit, packedBcd_toNat hx, packedBcd_toNat hy] at acc half carry
  have low : t.regs.f.h = true ∨ t.regs.a.toNat % 16 > 9 ↔ x % 10 < y % 10 + c.toNat := by
    rw [half, decide_eq_true_iff]
    omega
  have wrapped : t.regs.a.toNat + 16 * (y / 10) + (y % 10 + c.toNat) = 16 * (x / 10) + x % 10 ∨
      t.regs.a.toNat + 16 * (y / 10) + (y % 10 + c.toNat) = 16 * (x / 10) + x % 10 + 256 := by omega
  have high : t.regs.f.c = true ∨ t.regs.a.toNat > 0x99 ↔ x < y + c.toNat := by
    rw [carry, decide_eq_true_iff]
    omega
  simp only [low, high] at adjusted
  refine ⟨BitVec.eq_of_toNat_eq ?_, ?_⟩
  · rw [adjusted, packedBcd_toNat (Nat.mod_lt _ (by decide))]
    split <;> split <;> omega
  · rw [carry', Bool.eq_iff_iff, Bool.or_eq_true, decide_eq_true_iff, decide_eq_true_iff]
    exact high

theorem exec_aluImm_writes {op : AluOp} {n : Byte} {s t : State} (next : exec ((AluForm.imm n).instr op) s = .next t) :
    t.regs.a = (op.result s.regs.a s.regs.f.c n).1 ∧ HasFlags (op.result s.regs.a s.regs.f.c n).2 s t := by
  have listed : ((AluForm.imm n).instr op).undocumented = false := by cases op <;> rfl
  obtain ⟨t', v, next', ⟨operand, -⟩, written⟩ := exec_alu_writes (s := s) (form := .imm n) (.inl listed)
  have same : t = t' := Host.Outcome.next.inj (next.symm.trans next')
  rw [same, ← operand]
  exact written

/-- Settles O37: the first instruction leaves the sum or difference and the half carry that `DAA` corrects. -/
theorem decimalAdjustCorrectsDecimalSums : Obligations.DecimalAdjustCorrectsDecimalSums := by
  intro s t u x y c hx hy operand next
  refine ⟨fun hc first => ?_, fun hc first => ?_, fun first => ?_, fun first => ?_⟩
  · obtain ⟨acc, flags⟩ := exec_aluImm_writes (op := .adc) first
    have sum := acc ▸ flags.addFlags
    rw [operand, ← hc] at sum
    exact daa_after_add hx hy sum next
  · obtain ⟨acc, flags⟩ := exec_aluImm_writes (op := .sbc) first
    have difference := acc ▸ flags.subFlags.1
    rw [operand, ← hc] at difference
    exact daa_after_sub hx hy difference next
  · obtain ⟨acc, flags⟩ := exec_aluImm_writes (op := .add) first
    have sum := acc ▸ flags.addFlags
    rw [operand] at sum
    simpa using daa_after_add hx hy sum next
  · obtain ⟨acc, flags⟩ := exec_aluImm_writes (op := .sub) first
    have difference := acc ▸ flags.subFlags.1
    rw [operand] at difference
    simpa using daa_after_sub hx hy difference next

/-! ### `CPL`, `NEG`, `SCF`, `CCF` (R135 to R138) -/

theorem State.negate_subFlags (s : State) :
    SubFlags 0 s.regs.a false s.negate.regs.a s.negate ∧ XyOf s.negate.regs.a s s.negate :=
  (State.hasFlags_of_putXY (u := s) rfl rfl).subFlags

/-- Where Y and X are draws under both settings, the other bits are the given ones. -/
theorem State.putFlags_drawXY (s : State) (f : Flags) :
    let t := s.putFlags Flags.maskXY Flags.none f
    t.regs.f.s = f.s ∧ t.regs.f.z = f.z ∧ t.regs.f.h = f.h ∧ t.regs.f.pv = f.pv ∧ t.regs.f.n = f.n ∧
    t.regs.f.c = f.c := by
  cases undoc : s.params.undocFlags <;> simp [State.drawMask, undoc, Flags.mix, Flags.union, Flags.maskXY, Flags.none]

theorem exec_cpl_inverts (s : State) :
    ∃ t, exec .cpl s = .next t ∧ (∀ k, k < 8 → t.regs.a.getLsbD k = !s.regs.a.getLsbD k) ∧ t.regs.f.h = true ∧
      t.regs.f.n = true ∧ XyOf t.regs.a s t := by
  obtain ⟨-, -, hh, -, hn, -, hxy⟩ := s.putXY_flags ({ s.regs.f with h := true, n := true }.withXY (~~~s.regs.a))
  refine ⟨_, rfl, fun k hk => ?_, hh, hn, hxy⟩
  exact BitVec.getLsbD_not.trans (by simp [hk])

/-- Settles O38: `NEG` is a subtraction from 0, and `SCF` and `CCF` write F alone. -/
theorem accumulatorAndFlagOperations : Obligations.AccumulatorAndFlagOperations := by
  intro s
  refine ⟨exec_cpl_inverts s, ⟨_, rfl, s.negate_subFlags⟩,
    fun y silicon => ⟨_, State.undocumented_silicon _ _ silicon, s.negate_subFlags⟩, ?_, ?_⟩
  · obtain ⟨hs, hz, hh, hpv, hn, hc⟩ := s.putFlags_drawXY { s.regs.f with c := true, h := false, n := false }
    exact ⟨_, rfl, hc, hh, hn, hs, hz, hpv⟩
  · obtain ⟨hs, hz, hh, hpv, hn, hc⟩ :=
      s.putFlags_drawXY { s.regs.f with h := s.regs.f.c, c := !s.regs.f.c, n := false }
    exact ⟨_, rfl, hh, hc, hn, hs, hz, hpv⟩

/-! ### 16-bit arithmetic (R139 to R144) -/

theorem HasFlags.add16Flags {a b : Word} {s t : State} (h : HasFlags (add16 s.regs.f a b).2 s t) :
    Add16Flags a b (add16 s.regs.f a b).1 s t := by
  obtain ⟨hs, hz, hh, hpv, hn, hc, hxy⟩ := h
  rw [Add16Flags, word_lowTwelve, word_lowTwelve]
  exact ⟨BitVec.toNat_add .., hh, hn, hc, hxy, hs, hz, hpv⟩

theorem HasFlags.adc16Flags {a b : Word} {c : Bool} {s t : State} (h : HasFlags (adc16 a b c).2 s t) :
    Adc16Flags a b c (adc16 a b c).1 s t := by
  obtain ⟨hs, hz, hh, hpv, hn, hc, hxy⟩ := h
  rw [Adc16Flags, word_lowTwelve, word_lowTwelve]
  exact ⟨BitVec.toNat_ofNat .., hs, hz, hh, hpv.trans (beq_and_bne ..), hn, hc, hxy⟩

theorem sbc16_toNat (a b : Word) (c : Bool) :
    ((sbc16 a b c).1.toNat : Int) = ((a.toNat : Int) - b.toNat - c.toNat) % 65536 := by
  have := c.toNat_lt
  simp only [sbc16, BitVec.toNat_sub, BitVec.toNat_ofNat]
  omega

theorem HasFlags.sbc16Flags {a b : Word} {c : Bool} {s t : State} (h : HasFlags (sbc16 a b c).2 s t) :
    Sbc16Flags a b c (sbc16 a b c).1 s t := by
  obtain ⟨hs, hz, hh, hpv, hn, hc, hxy⟩ := h
  rw [Sbc16Flags, word_lowTwelve, word_lowTwelve]
  exact ⟨sbc16_toNat a b c, hs, hz, hh, hpv.trans (bne_and_bne ..), hn, hc, hxy⟩

theorem State.setPair_flags (s : State) (p : Rp) (v : Word) : (s.setPair p v).regs.f = s.regs.f := by
  cases p <;> rfl

theorem State.putXY_setHl_hasFlags (s : State) (f : Flags) (v : Word) : HasFlags f s ((s.putXY f).setHl v) :=
  State.hasFlags_of_putXY (u := s) rfl rfl

/-- Settles O39: the pair takes the result of the flag function, or the word one more or one less. -/
theorem wordArithmeticWritesThePair : Obligations.WordArithmeticWritesThePair := by
  intro s
  refine ⟨fun p => ⟨_, rfl, ?_⟩, fun i p => ⟨_, rfl, ?_⟩, fun p => ⟨_, rfl, ?_⟩, fun p => ⟨_, rfl, ?_⟩,
    fun p => ⟨_, rfl, s.pair_setPair p _, s.setPair_flags p _⟩, fun i => ⟨_, rfl, s.idx_setIdx i _, by simp⟩,
    fun p => ⟨_, rfl, s.pair_setPair p _, s.setPair_flags p _⟩, fun i => ⟨_, rfl, s.idx_setIdx i _, by simp⟩⟩
  · rw [State.hl_setHl]
    exact (s.putXY_setHl_hasFlags _ _).add16Flags
  · rw [State.idx_setIdx]
    exact (State.hasFlags_of_putXY (u := s) rfl (by simp)).add16Flags
  · rw [State.hl_setHl]
    exact (s.putXY_setHl_hasFlags _ _).adc16Flags
  · rw [State.hl_setHl]
    exact (s.putXY_setHl_hasFlags _ _).sbc16Flags

/-! ### Block compare (R145 to R149) -/

theorem cpBlockFlags_spec (f : Flags) (a v : Byte) (bc : Word) :
    let g := cpBlockFlags f a v bc
    let m := a - v - BitVec.ofNat 8 g.h.toNat
    g.s = (a - v).getLsbD 7 ∧ g.z = decide (a = v) ∧ g.h = decide ((a &&& 0x0F).toNat < (v &&& 0x0F).toNat) ∧
    g.pv = (bc != 0) ∧ g.n = true ∧ g.c = f.c ∧ g.y = m.getLsbD 1 ∧ g.x = m.getLsbD 3 := by
  have zero : (a - v == 0) = decide (a = v) := by
    rw [beq_eq_decide, decide_eq_decide]
    bv_omega
  have bit (b : Bool) : (bif b then 1 else 0 : Byte) = BitVec.ofNat 8 b.toNat := by cases b <;> rfl
  rw [byte_lowDigit, byte_lowDigit]
  exact ⟨rfl, zero, rfl, rfl, rfl, rfl, congrArg (fun h => (a - v - h).getLsbD 1) (bit _),
    congrArg (fun h => (a - v - h).getLsbD 3) (bit _)⟩

/-- All four instructions are this one operation: a read at HL, and changes of registers. -/
theorem State.cpStep_compared (s : State) (delta : Word) (repeats : Bool) :
    BlockCompared delta repeats s (s.cpStep delta repeats) := by
  obtain ⟨-, read⟩ := s.memRead_loaded s.hl
  unfold State.cpStep
  extract_lets v s1 f again
  have regs : v.2.regs = s.regs := by simp [v]
  have acc : s1.regs.a = s.regs.a := by simp [s1, regs]
  have bc : s1.bc = s.bc - 1 := by simp [s1, State.bc, regs]
  have params : s1.params = s.params := by simp [s1, v]
  have pc : s1.pc = s.pc := by simp [s1, v]
  have flags : f = cpBlockFlags s.regs.f s.regs.a v.1 (s.bc - 1) := by
    rw [← bc, ← acc]
    simp only [f, s1, State.setBc_fields, State.setHl_fields, regs]
  obtain ⟨sign, zero, half, counted, subtract, carry, y, x⟩ :=
    flags ▸ cpBlockFlags_spec s.regs.f s.regs.a v.1 (s.bc - 1)
  have repeating : again = true ↔ repeats = true ∧ s.bc ≠ 1 ∧ s.regs.a ≠ v.1 := by
    simp only [again, Bool.and_eq_true, bc, word_pred_bne_zero, zero, decide_eq_true_iff, Bool.not_eq_true',
      decide_eq_false_iff_not, and_assoc]
  obtain ⟨hs, hz, hh, hpv, hn, hc, hxy, back, on⟩ := s1.putFlags_repeatIf again f
  rw [repeating, params, y, x, ← hh] at hxy
  rw [repeating, pc] at back on
  refine ⟨v.1, ⟨?trace, read⟩, ?hl, ?bc, hs.trans sign, hz.trans zero, hh.trans half, hn.trans subtract,
    (hpv.trans counted).trans (word_pred_bne_zero _), hxy, ?acc, hc.trans carry, back, on⟩
  case trace => simp [s1, v]
  case hl => simp [s1, State.hl, regs]
  case bc => simpa [State.bc] using bc
  case acc => simpa using acc

/-- Settles O40: each instruction is one `cpStep`. -/
theorem blockCompareComparesOneByte : Obligations.BlockCompareComparesOneByte := by
  intro s
  exact ⟨⟨_, rfl, s.cpStep_compared 1 false⟩, ⟨_, rfl, s.cpStep_compared (-1) false⟩,
    ⟨_, rfl, s.cpStep_compared 1 true⟩, ⟨_, rfl, s.cpStep_compared (-1) true⟩⟩

/-! ### The flag functions over every pair of bytes (R122) -/

/-- Settles O41: the bits of the sum are those of its value modulo 256. -/
theorem flagFunctionsOverEveryPair : Obligations.FlagFunctionsOverEveryPair := by
  refine ⟨fun a b => ?_, fun f => ⟨rfl, rfl, rfl, rfl, rfl⟩⟩
  have sum : (add8 a b false).1.toNat = (a.toNat + b.toNat) % 256 := add8_toNat a b false
  refine ⟨?zero, ?sign, rfl, rfl, rfl, rfl⟩
  case zero =>
    rw [← sum]
    show decide ((add8 a b false).1 = 0) = _
    rw [decide_eq_decide, ← BitVec.toNat_inj]
    rfl
  case sign =>
    rw [← sum]
    exact byte_topBit _

end Sys2Proof.Machine
end

section
/-!
PROOFS. The rotates and shifts, `BIT`, `RES` and `SET`, and the digit rotates (42_rotate_bit.md rules R150 to R167). The
bytes are put together from parts that share no bit, so that their bitwise `or` is the sum of the spec's arithmetic
(`byte_or_toNat`); each group of instructions is first shown to be one operation in every form it has.
-/

namespace Sys2Proof.Machine

open Sys2Proof

/-! ### Bytes of two parts -/

/-- A byte made of the bits from k on of one byte and the bits below k of another. -/
theorem byte_or_toNat {hi lo : Byte} (k : Nat) (above : 2 ^ k ∣ hi.toNat) (below : lo.toNat < 2 ^ k) :
    (hi ||| lo).toNat = hi.toNat + lo.toNat := by
  obtain ⟨m, high⟩ := above
  rw [BitVec.toNat_or, high, Nat.two_pow_add_eq_or_of_lt below]

theorem byte_bit_toNat (v : Byte) (k : Nat) : (v.getLsbD k).toNat = v.toNat / 2 ^ k % 2 :=
  Nat.toNat_testBit v.toNat k

theorem byte_shiftLeft_toNat (v : Byte) (k : Nat) : (v <<< k).toNat = v.toNat * 2 ^ k % 256 := by
  rw [BitVec.toNat_shiftLeft, Nat.shiftLeft_eq]

theorem byte_shiftRight_toNat (v : Byte) (k : Nat) : (v >>> k).toNat = v.toNat / 2 ^ k := by
  rw [BitVec.toNat_ushiftRight, Nat.shiftRight_eq_div_pow]

/-! ### The rotates and shifts as numbers (R155 to R162) -/

/-- A shift left that takes in a bit at the bottom. -/
theorem shiftLeft_or_bit_toNat (v : Byte) (b : Bool) :
    ((v <<< 1) ||| bif b then 0x01 else 0x00 : Byte).toNat = 2 * v.toNat % 256 + b.toNat := by
  have bit : (bif b then 0x01 else 0x00 : Byte).toNat = b.toNat := by cases b <;> rfl
  have shifted := byte_shiftLeft_toNat v 1
  have small := b.toNat_lt
  rw [byte_or_toNat 1 (by omega) (by omega), shifted, bit]
  omega

/-- A shift right that takes in a bit at the top. -/
theorem shiftRight_or_bit_toNat (v : Byte) (b : Bool) :
    ((v >>> 1) ||| bif b then 0x80 else 0x00 : Byte).toNat = v.toNat / 2 + 128 * b.toNat := by
  have bit : (bif b then 0x80 else 0x00 : Byte).toNat = 128 * b.toNat := by cases b <;> rfl
  have shifted := byte_shiftRight_toNat v 1
  have bound := v.isLt
  rw [BitVec.or_comm, byte_or_toNat 7 (by omega) (by omega), shifted, bit]
  omega

theorem rotate_toNat (kind : Rotation) (v : Byte) (c : Bool) :
    ((rotate kind v c).1.toNat, (rotate kind v c).2.toNat) = rotated kind v.toNat c.toNat := by
  have bound := v.isLt
  have top : (v.getLsbD 7).toNat = v.toNat / 128 := by
    rw [byte_bit_toNat]
    omega
  have bottom : (v.getLsbD 0).toNat = v.toNat % 2 := by
    rw [byte_bit_toNat]
    omega
  have doubled : (v <<< 1).toNat = 2 * v.toNat % 256 := by
    rw [byte_shiftLeft_toNat]
    omega
  have halved : (v >>> 1).toNat = v.toNat / 2 := byte_shiftRight_toNat v 1
  cases kind with
  | rlc => exact Prod.ext ((shiftLeft_or_bit_toNat v _).trans (congrArg (2 * v.toNat % 256 + ·) top)) top
  | rrc => exact Prod.ext ((shiftRight_or_bit_toNat v _).trans (congrArg (v.toNat / 2 + 128 * ·) bottom)) bottom
  | rl => exact Prod.ext (shiftLeft_or_bit_toNat v c) top
  | rr => exact Prod.ext (shiftRight_or_bit_toNat v c) bottom
  | sla => exact Prod.ext doubled top
  | sra => exact Prod.ext ((shiftRight_or_bit_toNat v _).trans (congrArg (v.toNat / 2 + 128 * ·) top)) bottom
  | sll => exact Prod.ext (shiftLeft_or_bit_toNat v true) top
  | srl => exact Prod.ext halved bottom

/-! ### The forms of the CB map (R154) -/

/-- Where an instruction executes, gated or not, it takes its effect. -/
theorem Executes.takesEffect {i : Instr} {s t : State} (executes : Executes i s)
    (effect : exec i s = bif i.undocumented then s.undocumented i t else .next t) : exec i s = .next t := by
  cases gated : i.undocumented with
  | false => rwa [gated] at effect
  | true =>
    rw [gated] at effect
    exact effect.trans (State.undocumented_silicon i t (executes.silicon gated))

theorem Modified.congr {a : Word} {v r : Byte} {s t t' : State} (h : Modified a v r s t) (trace : t'.trace = t.trace)
    (mem : t'.mem = t.mem) : Modified a v r s t' := by
  have byte : t'.byteAt a = t.byteAt a := congrArg (Memory.read · a.toNat) mem
  simpa only [Modified, trace, byte] using h

/-- `r8[6]` is written at the address it was read at: a read leaves HL. -/
theorem State.writeOpnd_memRead (s : State) (v : Byte) :
    (s.memRead s.hl).2.writeOpnd .hlMem v = (s.memRead s.hl).2.memWrite s.hl v := by
  have same : (s.memRead s.hl).2.hl = s.hl := by simp [State.hl]
  exact congrArg (fun a => (s.memRead s.hl).2.memWrite a v) same

/-- A rotate or shift as a change of the operand and F. -/
def rotateChange (kind : Rotation) (f : Flags) (v : Byte) : Byte × Flags :=
  let r := rotate kind v f.c
  (r.1, rotateFlags r.1 r.2)

theorem State.rotateOpnd_eq_modifyOpnd (kind : Rotation) (o : Opnd8) (s : State) :
    s.rotateOpnd kind o = s.modifyOpnd (rotateChange kind) o := by
  cases o with
  | reg q => rfl
  | hlMem => exact congrArg (State.putXY _) (s.writeOpnd_memRead _)

theorem HasFlags.rotateFlags {r : Byte} {c : Bool} {s t : State} (h : HasFlags (rotateFlags r c) s t) :
    SzpOf r t.regs.f ∧ t.regs.f.h = false ∧ t.regs.f.n = false ∧ t.regs.f.c = c ∧ XyOf r s t := by
  obtain ⟨hs, hz, hh, hpv, hn, hc, hxy⟩ := h
  exact ⟨⟨hs, hz, hpv.trans (parity_eq_evenOnes r)⟩, hh, hn, hc, hxy⟩

/-- The register copy keeps what the write to memory and F left. -/
theorem State.rotateMemCopy_changed (s : State) (kind : Rotation) (i : Idx) (d : Byte) (z : Reg8) :
    (RmwForm.idxCopy i d z).changed (rotateChange kind) s (s.rotateMemCopy kind (s.indexed i d) z) := by
  have flags : (s.memRead (s.indexed i d)).2.regs.f = s.regs.f := by simp
  refine ⟨(s.memRead (s.indexed i d)).1, ⟨?modified, ?copied⟩, ?flags⟩
  case modified =>
    rw [← flags]
    exact (s.memRead_memWrite_modified (s.indexed i d) _).congr rfl rfl
  case copied =>
    rw [← flags]
    exact State.reg_setReg _ z _
  case flags =>
    rw [← flags]
    exact State.hasFlags_of_putXY (u := (s.memRead _).2.memWrite _ _) (by simp) (by cases z <;> rfl)

/-- Every rotate and shift in every form it has. -/
theorem exec_rot_changed {kind : Rotation} {form : RmwForm} {i : Instr} {s : State} (named : form.rot kind = some i)
    (executes : Executes i s) : ∃ t, exec i s = .next t ∧ form.changed (rotateChange kind) s t := by
  cases form with
  | reg q =>
    exact ⟨_, executes.takesEffect (by cases kind <;> cases named <;> rfl), s.modifyReg_changed (rotateChange kind) q⟩
  | hlMem =>
    refine ⟨s.rotateOpnd kind .hlMem, executes.takesEffect (by cases kind <;> cases named <;> rfl), ?_⟩
    rw [s.rotateOpnd_eq_modifyOpnd]
    exact s.modifyMem_changed (rotateChange kind) s.hl
  | idxMem j d =>
    exact ⟨_, executes.takesEffect (by cases kind <;> cases named <;> rfl),
      s.modifyMem_changed (rotateChange kind) (s.indexed j d)⟩
  | idxCopy j d z =>
    exact ⟨_, executes.takesEffect (by cases kind <;> cases named <;> rfl), s.rotateMemCopy_changed kind j d z⟩
  | half j h => cases kind <;> cases named

/-- What a rotate of A makes of it and of F (R150 to R153). -/
theorem State.rotateA_rotated (s : State) (kind : Rotation) :
    let t := s.rotateA kind
    (t.regs.a.toNat, t.regs.f.c.toNat) = rotated kind s.regs.a.toNat s.regs.f.c.toNat ∧
    t.regs.f.h = false ∧ t.regs.f.n = false ∧ XyOf t.regs.a s t ∧
    t.regs.f.s = s.regs.f.s ∧ t.regs.f.z = s.regs.f.z ∧ t.regs.f.pv = s.regs.f.pv := by
  intro t
  let r := rotate kind s.regs.a s.regs.f.c
  obtain ⟨hs, hz, hh, hpv, hn, hc, hxy⟩ : HasFlags (rotateAFlags s.regs.f r.1 r.2) s t :=
    State.hasFlags_of_putXY (u := s) rfl rfl
  exact ⟨hc ▸ rotate_toNat kind s.regs.a s.regs.f.c, hh, hn, hxy, hs, hz, hpv⟩

/-- Settles O42: the accumulator forms are one `rotateA`, and every other form replaces its operand. -/
theorem rotatesAndShiftsReplaceTheByte : Obligations.RotatesAndShiftsReplaceTheByte := by
  intro s kind i
  refine ⟨fun listed => ⟨s.rotateA kind, ?_, s.rotateA_rotated kind⟩, fun form named executes => ?_⟩
  · simp only [List.mem_cons, List.not_mem_nil, or_false, Prod.mk.injEq] at listed
    rcases listed with ⟨rfl, rfl⟩ | ⟨rfl, rfl⟩ | ⟨rfl, rfl⟩ | ⟨rfl, rfl⟩ <;> rfl
  · obtain ⟨t, next, v, replaced, flags⟩ := exec_rot_changed named executes
    obtain ⟨szp, hh, hn, hc, hxy⟩ := flags.rotateFlags
    exact ⟨t, v, _, next, replaced, hc ▸ rotate_toNat kind v s.regs.f.c, szp, hh, hn, hxy⟩

/-! ### `BIT` (R163) -/

/-- F after `BIT b`, but for Y and X. -/
def BitFlags (b : Fin 8) (v : Byte) (s t : State) : Prop :=
  t.regs.f.z = !v.getLsbD b ∧ t.regs.f.h = true ∧ t.regs.f.n = false ∧ t.regs.f.c = s.regs.f.c ∧
  (s.params.undocFlags = .silicon → t.regs.f.pv = !v.getLsbD b ∧ t.regs.f.s = (decide (b = 7) && v.getLsbD b))

/-- `BIT b` found `v` and wrote only flags, Y and X from the byte `xy` if there is one. -/
def BitTested (b : Fin 8) (v : Byte) (xy : Option Byte) (s t : State) : Prop :=
  KeptOutside flagsButC s t ∧ t.mem = s.mem ∧ BitFlags b v s t ∧ ∀ w, xy = some w → XyOf w s t

/-- The byte a form takes Y and X from, `v` being its operand: none for `(HL)`, where they are draws. -/
def RmwForm.xySource (form : RmwForm) (v : Byte) (s : State) : Option Byte :=
  match form with
  | .reg _ => some v
  | .idxMem i d | .idxCopy i d _ => some (hiByte (s.indexed i d))
  | .hlMem | .half _ _ => none

theorem State.testBit_flags (s : State) (b : Fin 8) (v xy : Byte) {always : Flags}
    (draws : always = Flags.none ∨ always = Flags.maskXY) : BitFlags b v s (s.testBit b v xy always) := by
  rcases draws with rfl | rfl <;> cases undoc : s.params.undocFlags <;>
    simp [BitFlags, State.testBit, State.drawMask, undoc, Flags.mix, Flags.union, Flags.maskXY, Flags.maskBit,
      Flags.none, bitFlags, beq_eq_decide]

theorem State.testBit_kept (s : State) (b : Fin 8) (v xy : Byte) {always : Flags}
    (draws : always = Flags.none ∨ always = Flags.maskXY) : KeptOutside flagsButC s (s.testBit b v xy always) := by
  obtain ⟨-, -, -, carry, -⟩ := s.testBit_flags b v xy draws
  intro cell kept
  cases cell with
  | flag f =>
    cases f with
    | c => exact congrArg Bool.toNat carry
    | s | z | y | h | x | pv | n => simp [flagsButC] at kept
  | reg q => cases q <;> rfl
  | _ => rfl

/-- Where the form draws nothing under Silicon, Y and X are those of `xy`. -/
theorem State.testBit_tested (s : State) (b : Fin 8) (v xy : Byte) :
    BitTested b v (some xy) s (s.testBit b v xy Flags.none) := by
  refine ⟨s.testBit_kept b v xy (.inl rfl), rfl, s.testBit_flags b v xy (.inl rfl), ?_⟩
  rintro _ ⟨⟩ silicon
  have flags := s.putFlags_silicon Flags.maskBit (bitFlags s.regs.f b v xy) silicon
  exact ⟨congrArg Flags.y flags, congrArg Flags.x flags⟩

theorem State.testBit_drawn_tested (s : State) (b : Fin 8) (v xy : Byte) :
    BitTested b v none s (s.testBit b v xy Flags.maskXY) :=
  ⟨s.testBit_kept b v xy (.inr rfl), rfl, s.testBit_flags b v xy (.inr rfl), nofun⟩

/-- The read of the operand writes no cell and no byte. -/
theorem BitTested.of_memRead {b : Fin 8} {v : Byte} {xy : Option Byte} {a : Word} {s t : State}
    (tested : BitTested b v xy (s.memRead a).2 t) : BitTested b v xy s t := by
  have cells (cell : Cell) : (s.memRead a).2.cell cell = s.cell cell := by cases cell <;> simp [State.cell]
  simpa [BitTested, BitFlags, XyOf, KeptOutside, cells] using tested

/-- `BIT` in every form it has. -/
theorem exec_bit_tested {b : Fin 8} {form : RmwForm} {i : Instr} {s : State} (named : form.bit b = some i)
    (executes : Executes i s) :
    ∃ t v, exec i s = .next t ∧ form.tested v s t ∧ BitTested b v (form.xySource v s) s t := by
  cases form with
  | reg q =>
    cases named
    exact ⟨_, s.reg q, rfl, ⟨rfl, rfl⟩, s.testBit_tested b _ _⟩
  | hlMem =>
    cases named
    exact ⟨_, _, rfl, (s.memRead_loaded s.hl).congr rfl, (State.testBit_drawn_tested _ b _ _).of_memRead⟩
  | idxMem j d =>
    cases named
    exact ⟨_, _, rfl, (s.memRead_loaded (s.indexed j d)).congr rfl, (State.testBit_tested _ b _ _).of_memRead⟩
  | idxCopy j d z =>
    cases named
    exact ⟨_, _, executes.takesEffect rfl, (s.memRead_loaded (s.indexed j d)).congr rfl,
      (State.testBit_tested _ b _ _).of_memRead⟩
  | half j h => cases named

theorem hiByte_bit (w : Word) {k : Nat} (hk : k < 8) : (hiByte w).getLsbD k = w.getLsbD (8 + k) := by
  simp [hiByte, hk]

/-- Bits 5 and 3 of the high byte are bits 13 and 11 of the word. -/
theorem XyOf.of_hiByte {w : Word} {s t : State} (xy : XyOf (hiByte w) s t) (silicon : s.params.undocFlags = .silicon) :
    t.regs.f.y = w.getLsbD 13 ∧ t.regs.f.x = w.getLsbD 11 := by
  obtain ⟨y, x⟩ := xy silicon
  exact ⟨y.trans (hiByte_bit w (by decide)), x.trans (hiByte_bit w (by decide))⟩

/-- Settles O43: every form is one `testBit` after its read. -/
theorem bitTestsTheBit : Obligations.BitTestsTheBit := by
  intro s form b i named executes
  obtain ⟨t, v, next, tested, kept, mem, ⟨hz, hh, hn, hc, undefined⟩, xy⟩ := exec_bit_tested named executes
  refine ⟨t, v, next, tested, kept, mem, hz, hh, hn, hc, fun silicon => ?_⟩
  obtain ⟨hpv, hs⟩ := undefined silicon
  refine ⟨hpv, hs, ?_, ?_⟩
  · rintro q rfl
    exact xy v rfl silicon
  · rintro j d (rfl | ⟨z, rfl⟩) <;> exact (xy _ rfl).of_hiByte silicon

/-! ### `RES` and `SET` (R164, R165) -/

theorem oneShifted_bit (b : Fin 8) (k : Nat) :
    ((1 : Byte) <<< b.val).getLsbD k = decide (k = b.val) := by
  show (BitVec.twoPow 8 b.val).getLsbD k = _
  rw [BitVec.getLsbD_twoPow, decide_eq_true b.isLt, Bool.true_and, decide_eq_decide]
  exact eq_comm

theorem resetBit_bit (b : Fin 8) (v : Byte) {k : Nat} (hk : k < 8) :
    (resetBit b v).getLsbD k = if k = b.val then false else v.getLsbD k := by
  rw [resetBit, BitVec.getLsbD_and, BitVec.getLsbD_not, oneShifted_bit b k]
  split <;> simp [*]

theorem setBit_bit (b : Fin 8) (v : Byte) (k : Nat) :
    (setBit b v).getLsbD k = if k = b.val then true else v.getLsbD k := by
  rw [setBit, BitVec.getLsbD_or, oneShifted_bit b k]
  split <;> simp [*]

/-- The operand replaced by what `change` makes of it, F kept. -/
def RmwForm.rewritten (form : RmwForm) (change : Byte → Byte) (s t : State) : Prop :=
  ∃ v, form.replaced v (change v) s t ∧ t.regs.f = s.regs.f

theorem State.changeMem_rewritten (s : State) (change : Byte → Byte) (a : Word) :
    ∃ v, Modified a v (change v) s (s.changeMem change a).2 ∧ (s.changeMem change a).2.regs.f = s.regs.f :=
  ⟨_, s.memRead_memWrite_modified a _, by simp [State.changeMem]⟩

theorem State.changeMemCopy_rewritten (s : State) (change : Byte → Byte) (i : Idx) (d : Byte) (z : Reg8) :
    (RmwForm.idxCopy i d z).rewritten change s (s.changeMemCopy change (s.indexed i d) z) := by
  have copied : (s.changeMemCopy change (s.indexed i d) z).regs.f = (s.changeMem change (s.indexed i d)).2.regs.f := by
    cases z <;> rfl
  exact ⟨_, ⟨(s.memRead_memWrite_modified (s.indexed i d) _).congr rfl rfl, State.reg_setReg _ z _⟩,
    copied.trans (by simp [State.changeMem])⟩

theorem State.changeOpnd_hlMem (s : State) (change : Byte → Byte) :
    s.changeOpnd change .hlMem = (s.changeMem change s.hl).2 :=
  s.writeOpnd_memRead _

/-- Either instruction in every form it has. -/
theorem exec_resSet_rewritten {b : Fin 8} {change : Byte → Byte} {form : RmwForm} {i : Instr} {s : State}
    (named : form.res b = some i ∧ change = resetBit b ∨ form.set b = some i ∧ change = setBit b)
    (executes : Executes i s) : ∃ t, exec i s = .next t ∧ form.rewritten change s t := by
  cases form with
  | reg q =>
    refine ⟨s.changeOpnd change (.reg q), ?_, s.reg q, ⟨rfl, s.reg_setReg q _, rfl⟩, ?_⟩
    · rcases named with ⟨⟨⟩, rfl⟩ | ⟨⟨⟩, rfl⟩ <;> rfl
    · cases q <;> rfl
  | hlMem =>
    refine ⟨s.changeOpnd change .hlMem, ?_, s.changeOpnd_hlMem change ▸ s.changeMem_rewritten change s.hl⟩
    rcases named with ⟨⟨⟩, rfl⟩ | ⟨⟨⟩, rfl⟩ <;> rfl
  | idxMem j d =>
    refine ⟨_, ?_, s.changeMem_rewritten change (s.indexed j d)⟩
    rcases named with ⟨⟨⟩, rfl⟩ | ⟨⟨⟩, rfl⟩ <;> rfl
  | idxCopy j d z =>
    refine ⟨_, executes.takesEffect ?_, s.changeMemCopy_rewritten change j d z⟩
    rcases named with ⟨⟨⟩, rfl⟩ | ⟨⟨⟩, rfl⟩ <;> rfl
  | half j h => rcases named with ⟨⟨⟩, -⟩ | ⟨⟨⟩, -⟩

/-- Settles O44: each form rewrites its operand with the one bit changed. -/
theorem resetAndSetChangeOneBit : Obligations.ResetAndSetChangeOneBit := by
  intro s form b i
  refine ⟨fun named executes => ?_, fun named executes => ?_⟩
  · obtain ⟨t, next, v, replaced, flags⟩ := exec_resSet_rewritten (.inl ⟨named, rfl⟩) executes
    exact ⟨t, v, _, next, replaced, flags, fun _ hk => resetBit_bit b v hk⟩
  · obtain ⟨t, next, v, replaced, flags⟩ := exec_resSet_rewritten (.inr ⟨named, rfl⟩) executes
    exact ⟨t, v, _, next, replaced, flags, fun k _ => setBit_bit b v k⟩

/-! ### `RLD` and `RRD` (R166, R167) -/

theorem byte_highDigit (v : Byte) : (v &&& (0xF0 : Byte)).toNat = v.toNat / 16 * 16 := by
  have cleared : v >>> 4 <<< 4 = v &&& (0xF0 : Byte) := BitVec.shiftLeft_ushiftRight (x := v) (n := 4)
  have bound := v.isLt
  rw [← cleared, byte_shiftLeft_toNat, byte_shiftRight_toNat]
  omega

/-- A byte with its low digit replaced. -/
theorem highDigit_or_toNat (v : Byte) {lo : Byte} {n : Nat} (low : lo.toNat = n) (digit : n < 16) :
    ((v &&& (0xF0 : Byte)) ||| lo).toNat = v.toNat / 16 * 16 + n := by
  have high := byte_highDigit v
  rw [byte_or_toNat 4 (by omega) (low ▸ digit), high, low]

/-- A byte with its low digit moved up and another put below. -/
theorem movedDigit_or_toNat (v : Byte) {lo : Byte} {n : Nat} (low : lo.toNat = n) (digit : n < 16) :
    ((v <<< 4) ||| lo).toNat = v.toNat % 16 * 16 + n := by
  have high := byte_shiftLeft_toNat v 4
  rw [byte_or_toNat 4 (by omega) (low ▸ digit), high, low]
  omega

theorem HasFlags.valueFlags {v : Byte} {s t : State} (h : HasFlags (valueFlags s.regs.f v) s t) :
    SzpOf v t.regs.f ∧ t.regs.f.h = false ∧ t.regs.f.n = false ∧ t.regs.f.c = s.regs.f.c ∧ XyOf v s t := by
  obtain ⟨hs, hz, hh, hpv, hn, hc, hxy⟩ := h
  exact ⟨⟨hs, hz, hpv.trans (parity_eq_evenOnes v)⟩, hh, hn, hc, hxy⟩

/-- A digit rotate reads the byte at HL, writes the new one there, and puts the new A and its flags. -/
theorem exec_rotateDigit {i : Instr} {mem acc : Byte → Byte → Byte} {s : State}
    (effect : exec i s = .next (s.rotateDigit mem acc)) :
    ∃ t v, exec i s = .next t ∧ Modified s.hl v (mem s.regs.a v) s t ∧ t.regs.a = acc s.regs.a v ∧
      HasFlags (valueFlags s.regs.f t.regs.a) s t :=
  ⟨_, _, effect, (s.memRead_memWrite_modified s.hl _).congr rfl rfl, rfl,
    State.hasFlags_of_putXY (u := (s.memRead s.hl).2.memWrite s.hl _) (by simp) rfl⟩

/-- Settles O45: both are one `rotateDigit`, and each new byte is made of two digits. -/
theorem digitRotatesTurnThreeDigits : Obligations.DigitRotatesTurnThreeDigits := by
  intro s
  have high (v : Byte) : (v >>> 4).toNat = v.toNat / 16 := byte_shiftRight_toNat v 4
  have high_lt (v : Byte) : v.toNat / 16 < 16 := Nat.div_lt_of_lt_mul v.isLt
  have low_lt (v : Byte) : v.toNat % 16 < 16 := Nat.mod_lt _ (by decide)
  constructor
  · obtain ⟨t, v, next, modified, acc, flags⟩ := exec_rotateDigit (i := .rld) (s := s) rfl
    refine ⟨t, v, _, next, modified, ?byte, ?acc, flags.valueFlags⟩
    case byte => exact movedDigit_or_toNat v (byte_lowDigit s.regs.a) (low_lt _)
    case acc => exact (congrArg BitVec.toNat acc).trans (highDigit_or_toNat s.regs.a (high v) (high_lt v))
  · obtain ⟨t, v, next, modified, acc, flags⟩ := exec_rotateDigit (i := .rrd) (s := s) rfl
    refine ⟨t, v, _, next, modified, ?byte, ?acc, flags.valueFlags⟩
    case byte => exact movedDigit_or_toNat s.regs.a (high v) (high_lt v)
    case acc => exact (congrArg BitVec.toNat acc).trans (highDigit_or_toNat s.regs.a (byte_lowDigit v) (low_lt _))

end Sys2Proof.Machine
end

section
/-!
PROOFS. Calls and returns (43_control.md rules R175 to R181, R226). Every call is one push of PC, and every return one
pop into PC.
-/

namespace Sys2Proof.Machine

/-- A call pushes the address past the instruction: the jump that follows touches neither SP nor memory. -/
theorem State.call_pushed (s : State) (target : Word) : Pushed s.pc s (s.call target) := s.push16_pushed s.pc

theorem State.popPc_popped (s : State) : Popped s.popPc.pc s s.popPc := s.pop16_popped

/-- R226: the return of `RETN` and `RETI` also restores IFF1. -/
theorem State.returnFromInterrupt_popped (s : State) :
    Popped s.returnFromInterrupt.pc s s.returnFromInterrupt ∧
      s.returnFromInterrupt.iff1 = s.iff2 ∧ s.returnFromInterrupt.iff2 = s.iff2 :=
  ⟨s.pop16_popped, by simp, by simp⟩

theorem exec_callCcNn_of_true {cc : Cond} {s : State} (nn : Word) (holds : s.cond cc = true) :
    exec (.callCcNn cc nn) s = .next (s.call nn) := congrArg _ (if_pos holds)

theorem exec_callCcNn_of_false {cc : Cond} {s : State} (nn : Word) (fails : s.cond cc = false) :
    exec (.callCcNn cc nn) s = .next s := congrArg _ (if_neg (Bool.eq_false_iff.1 fails))

theorem exec_retCc_of_true {cc : Cond} {s : State} (holds : s.cond cc = true) :
    exec (.retCc cc) s = .next s.popPc := congrArg _ (if_pos holds)

theorem exec_retCc_of_false {cc : Cond} {s : State} (fails : s.cond cc = false) :
    exec (.retCc cc) s = .next s := congrArg _ (if_neg (Bool.eq_false_iff.1 fails))

/-- R181: the eight restart addresses fit in a word. -/
theorem restartAddress_toNat (y : Fin 8) : (BitVec.ofNat 16 (y.val * 8)).toNat = y.val * 8 :=
  (BitVec.toNat_ofNat _ 16).trans (Nat.mod_eq_of_lt (by omega))

/-- Settles O47: a call taken is one `call`, a return taken one `popPc` or one `returnFromInterrupt`, and either not
taken is the state it began in. -/
theorem callsAndReturnsUseTheStack : Obligations.CallsAndReturnsUseTheStack := by
  intro s
  refine ⟨?call, ?callTaken, ?callNotTaken, ?rst, ?ret, ?retTaken, ?retNotTaken, ?retn, ?reti, ?retnDup⟩
  case call => exact fun nn => ⟨_, rfl, rfl, s.call_pushed nn⟩
  case callTaken => exact fun _ nn holds => ⟨_, exec_callCcNn_of_true nn holds, rfl, s.call_pushed nn⟩
  case callNotTaken => exact fun _ nn fails => exec_callCcNn_of_false nn fails
  case rst => exact fun y => ⟨_, rfl, restartAddress_toNat y, s.call_pushed _⟩
  case ret => exact ⟨_, rfl, s.popPc_popped⟩
  case retTaken => exact fun _ holds => ⟨_, exec_retCc_of_true holds, s.popPc_popped⟩
  case retNotTaken => exact fun _ fails => exec_retCc_of_false fails
  case retn => exact ⟨_, rfl, s.returnFromInterrupt_popped⟩
  case reti => exact ⟨_, rfl, s.returnFromInterrupt_popped⟩
  case retnDup =>
    exact fun y silicon => ⟨_, State.undocumented_silicon (.retnDup y) _ silicon, s.returnFromInterrupt_popped⟩

end Sys2Proof.Machine
end

section
/-!
PROOFS. Input and output (44_io.md rules R183 to R198). A single transfer is one port access; a block transfer is a port
access and a memory access, then changes of B, HL, F and PC.
-/

namespace Sys2Proof.Machine

open Sys2Proof

/-! ### Single transfers (R185 to R190) -/

/-- A byte read from port BC sets F but for C (R186, R187). -/
theorem State.inC_flags (s : State) : HasFlags (valueFlags s.regs.f s.inC.1) s s.inC.2 :=
  State.hasFlags_of_putXY (u := (s.ioRead s.bc).2) rfl rfl

/-- Settles O48: each form is one port access, after which the inputs write a register, F or both. -/
theorem singlePortTransfers : Obligations.SinglePortTransfers := by
  intro s
  refine ⟨?inA, ?inReg, ?inFlags, ?outA, ?outReg, ?outZero⟩
  case inA => exact fun n => ⟨_, rfl, rfl, rfl⟩
  case inReg =>
    intro y
    have flags : HasFlags (valueFlags s.regs.f s.inC.1) s (s.inC.2.setReg y s.inC.1) := by
      simpa only [HasFlags, State.setReg_fields, Bank.set_f] using s.inC_flags
    exact ⟨_, s.inC.1, rfl, rfl, State.reg_setReg .., flags.valueFlags⟩
  case inFlags =>
    exact fun silicon => ⟨_, s.inC.1, State.undocumented_silicon .inFC _ silicon, rfl, s.inC_flags.valueFlags⟩
  case outA => exact fun n => ⟨_, rfl, rfl⟩
  case outReg => exact fun y => ⟨_, rfl, rfl⟩
  case outZero => exact fun silicon => ⟨_, State.undocumented_silicon .outC0 _ silicon, rfl⟩

/-! ### Block transfers (R184, R191 to R198) -/

/-- The model reduces `k` to a byte before it takes its low three bits. -/
theorem ioBlockFlags_zpv (v b : Byte) (k : Nat) :
    (ioBlockFlags v b k).z = decide (b = 0) ∧
    (ioBlockFlags v b k).pv = evenOnes (BitVec.ofNat 8 (k % 8) ^^^ b) := by
  refine ⟨beq_eq_decide b 0, ?pv⟩
  rw [← parity_eq_evenOnes, ← Nat.mod_mod_of_dvd k (show 8 ∣ 256 by decide)]
  rfl

/-- How a block transfer ends (R184, R193): Z is the flag function's whatever is drawn; under Silicon S, N and C are
too, and so is all of F on an execution that does not repeat. -/
theorem State.ioBlockEnd_ends {s u : State} (v : Byte) (k : Nat) (repeats : Bool) (params : u.params = s.params)
    (pc : u.pc = s.pc) : BlockIoEnd v u.regs.b k repeats s (u.ioBlockEnd v k repeats) := by
  obtain ⟨zero, even⟩ := ioBlockFlags_zpv v u.regs.b k
  unfold State.ioBlockEnd
  extract_lets again
  have repeating : again = true ↔ repeats = true ∧ u.regs.b ≠ 0 := by rw [Bool.and_eq_true, bne_iff_ne]
  rw [BlockIoEnd, ← repeating, ← zero, ← even, ← params, ← pc]
  cases undoc : u.params.undocFlags with
  | silicon =>
    cases again <;> simp [State.drawMask, undoc, Flags.mix, Flags.maskRepeatIo, Flags.none, ioBlockFlags]
  | draw =>
    cases again <;>
      simp [State.drawMask, undoc, Flags.mix, Flags.union, Flags.maskBlockIo, Flags.maskRepeatIo, Flags.none]

/-- What the end of a block transfer leaves of the fields it never writes. -/
theorem State.ioBlockEnd_kept (s : State) (v : Byte) (k : Nat) (repeats : Bool) :
    let t := s.ioBlockEnd v k repeats
    t.trace = s.trace ∧ t.mem = s.mem ∧ t.regs.b = s.regs.b ∧ t.regs.c = s.regs.c ∧ t.hl = s.hl := by
  simp [State.ioBlockEnd, State.hl]

/-- All four block inputs are this one operation: a read of the port BC, a write at HL, and changes of registers. -/
theorem State.inStep_blockRead (s : State) (delta : Word) (deltaC : Byte) (repeats : Bool) :
    BlockRead delta deltaC repeats s (s.inStep delta deltaC repeats) := by
  obtain ⟨-, stored⟩ := (s.ioRead s.bc).2.memWrite_stored s.hl (s.ioRead s.bc).1
  rw [State.plainAt_congr (s := s) (by simp)] at stored
  unfold State.inStep
  extract_lets v s1 s2
  have regs : s1.regs = s.regs := by simp [s1, v]
  have b : s2.regs.b = s.regs.b - 1 := by simp [s2, regs, Bank.set]
  have c : s2.regs.c = s.regs.c := by simp [s2, regs, Bank.set]
  have hl : s2.hl = s.hl + delta := by simp [s2, State.hl, regs]
  rw [c]
  obtain ⟨trace, mem, keptB, keptC, keptHl⟩ := s2.ioBlockEnd_kept v.1 (v.1.toNat + (s.regs.c + deltaC).toNat) repeats
  refine ⟨v.1, ?trace, fun plain => ?stored, keptB.trans b, keptC.trans c, keptHl.trans hl, ?ends⟩
  case trace => rw [trace]; simp [s2, s1, v]
  case stored => rw [State.byteAt, mem]; exact stored plain
  case ends =>
    rw [← b]
    exact State.ioBlockEnd_ends _ _ _ (by simp [s2, s1, v]) (by simp [s2, s1, v])

/-- All four block outputs are this one operation: a read at HL, a write of the port made of the new B and C, and
changes of registers. -/
theorem State.outStep_blockWritten (s : State) (delta : Word) (repeats : Bool) :
    BlockWritten delta repeats s (s.outStep delta repeats) := by
  obtain ⟨-, read⟩ := s.memRead_loaded s.hl
  unfold State.outStep
  extract_lets v s1 s2 s3
  have regs : s2.regs = s.regs.set .b (s.regs.b - 1) := by simp [s2, s1, v]
  have port : s1.bc = joinBytes (s.regs.b - 1) s.regs.c := by simp [s1, v, State.bc, Bank.set]
  have b : s3.regs.b = s.regs.b - 1 := by simp [s3, regs, Bank.set]
  have c : s3.regs.c = s.regs.c := by simp [s3, regs, Bank.set]
  have hl : s3.hl = s.hl + delta := by simp [s3, State.hl, regs, Bank.set]
  have low : s3.regs.l = loByte (s.hl + delta) := by rw [← hl, State.hl, loByte_joinBytes]
  rw [low]
  obtain ⟨trace, -, keptB, keptC, keptHl⟩ := s3.ioBlockEnd_kept v.1 (v.1.toNat + (loByte (s.hl + delta)).toNat) repeats
  refine ⟨v.1, ?trace, read, keptB.trans b, keptC.trans c, keptHl.trans hl, ?ends⟩
  case trace => rw [trace, ← port]; simp [s3, s2, s1, v]
  case ends =>
    rw [← b]
    exact State.ioBlockEnd_ends _ _ _ (by simp [s3, s2, s1, v]) (by simp [s3, s2, s1, v])

/-- Settles O49: each instruction is one `inStep` or one `outStep`. -/
theorem blockPortTransfers : Obligations.BlockPortTransfers := by
  intro s
  exact ⟨⟨_, rfl, s.inStep_blockRead 1 1 false⟩, ⟨_, rfl, s.inStep_blockRead (-1) (-1) false⟩,
    ⟨_, rfl, s.inStep_blockRead 1 1 true⟩, ⟨_, rfl, s.inStep_blockRead (-1) (-1) true⟩,
    ⟨_, rfl, s.outStep_blockWritten 1 false⟩, ⟨_, rfl, s.outStep_blockWritten (-1) false⟩,
    ⟨_, rfl, s.outStep_blockWritten 1 true⟩, ⟨_, rfl, s.outStep_blockWritten (-1) true⟩⟩

end Sys2Proof.Machine
end

section
/-!
PROOFS. `EI` before a poll, and the run loop (45_system.md rules R200, R202; 60_exceptions.md rules R213, R218, R229,
R249). What an iteration leaves the loop to do is said once, in `runLoop_succ_next`; the bound on the count, what a
`Run` keeps and the composition of two are inductions over it.
-/

namespace Sys2Proof.Machine

open Sys2Proof

/-! ### `EI` has no shadow -/

theorem State.poll_mode1 {s : State} (latch : s.nmiLatch = false) (line : s.intLine = true) (enabled : s.iff1 = true)
    (mode : s.im = .im1) : s.poll = (s.acceptMode1, true) := by
  simp [State.poll, latch, line, enabled, mode]

/-- The call of the provider afterwards touches neither a cell nor memory (R218). -/
theorem State.acceptMode1_accepted (s : State) : Accepted 0x0038 false s s.acceptMode1 := by
  have accepted := s.takeInterrupt_accepted 0x0038 false
  simp only [State.acceptMode1]
  split
  · exact accepted
  · exact accepted

theorem State.acceptMode1_of_noProvider {s : State} (noProvider : s.provider = false) :
    s.acceptMode1 = s.takeInterrupt 0x0038 false := by
  simp [State.acceptMode1, noProvider]

/-- A running core that accepts in mode 1 pushes PC, and where the stack is plain memory only a provider can make a
forbidden call (R215, R218, R235). -/
theorem step_accepts_mode1 {s : State} (live : s.live) (latch : s.nmiLatch = false) (line : s.intLine = true)
    (enabled : s.iff1 = true) (mode : s.im = .im1) (running : s.halted = false) (hi : s.plainAt (s.sp - 1))
    (lo : s.plainAt (s.sp - 2)) :
    ∃ u, step s = endOfStep (.next u) ∧ u.pc = 0x0038 ∧ u.byteAt (s.sp - 1) = hiByte s.pc ∧
      u.byteAt (s.sp - 2) = loByte s.pc ∧ (s.provider = false → u.violation = none) := by
  have accepts : s.nextDraw.poll = (s.nextDraw.acceptMode1, true) := State.poll_mode1 latch line enabled mode
  have returns : s.nextDraw.returnAddress = s.pc := if_neg (Bool.eq_false_iff.1 running)
  obtain ⟨pc, -, -, -, -, -, hiStored, loStored, -, -⟩ := s.nextDraw.acceptMode1_accepted
  rw [returns] at hiStored loStored
  refine ⟨_, step_of_poll_accepts live accepts, pc, hiStored hi, loStored lo, fun noProvider => ?_⟩
  rw [State.acceptMode1_of_noProvider (by simpa using noProvider)]
  obtain ⟨-, -, violation⟩ := s.nextDraw.takeInterrupt_linesKept 0x0038 false hi lo
  obtain ⟨-, -, noViolation⟩ := live
  exact violation.trans noViolation

/-- Settles O55: what `EI` leaves is a state whose poll accepts in mode 1. -/
theorem enableTakesEffectAtTheNextPoll : Obligations.EnableTakesEffectAtTheNextPoll := by
  intro s live latch line mode running hi lo
  obtain ⟨u, accepted⟩ :=
    step_accepts_mode1 (s := { s with iff1 := true, iff2 := true }) live latch line rfl mode running hi lo
  exact ⟨_, u, rfl, accepted⟩

/-! ### One iteration -/

section
variable {s t u : State} {turn : Turn}

/-- The converse of `iterate_next` for an instruction. -/
theorem iterate_executed (live : s.live) (declines : s.nextDraw.poll = (u, false)) (running : u.halted = false)
    (polled : u.violation = none) (fetched : u.fetchInstr.2.violation = none)
    (next : exec u.fetchInstr.1 u.fetchInstr.2 = .next t) (ended : t.violation = none) :
    iterate s = .next (t, .executed) := by
  obtain ⟨initialised, written, -⟩ := live
  simp [iterate, initialised, written, declines, running, polled, fetched, next, ended]

theorem step_of_iterate (h : iterate s = .next (t, turn)) : step s = .next t := by
  simp only [step, h]

theorem State.poll_initialised (s : State) : s.poll.1.initialised = s.initialised := by
  unfold State.poll State.acceptNmi State.acceptMode0 State.acceptMode1 State.acceptMode2
  simp only []
  repeat' split
  all_goals simp

theorem iterate_initialised (h : iterate s = .next (t, turn)) : t.initialised = true := by
  obtain ⟨initialised, -, -, ended⟩ := iterate_next h
  have polled : s.nextDraw.poll.1.initialised = true := s.nextDraw.poll_initialised.trans initialised
  rcases ended with ⟨-, accepts⟩ | ⟨-, declines, -⟩ | ⟨-, u, declines, -, -, -, next⟩
  · rwa [accepts] at polled
  · rwa [declines] at polled
  · obtain ⟨kept, -⟩ := (exec_accesses next).fields_eq
    rw [declines] at polled
    simpa [kept] using polled

end

/-! ### The loop and `Run` -/

section
variable {s t : State} {k c count : Nat}

/-- The iteration of a loop that returns: the last one, which leaves the core halted, or one the loop goes on from. -/
theorem runLoop_succ_next (h : runLoop (k + 1) s c = .next (t, count)) :
    ∃ u turn, iterate s = .next (u, turn) ∧
      ((u = t ∧ t.halted = true ∧ (count = c ∨ count = c + 1)) ∨
        (runLoop k u (c + 1) = .next (t, count) ∧ ∀ j, runLoop (j + 1) s c = runLoop j u (c + 1))) := by
  rw [runLoop] at h
  split at h
  case h_1 u turned => exact ⟨u, _, turned, .inr ⟨h, fun j => by simp only [runLoop, turned]⟩⟩
  case h_2 u turned =>
    cases h
    obtain ⟨-, -, -, ⟨other, -⟩ | ⟨-, -, halted⟩ | ⟨other, -⟩⟩ := iterate_next turned
    · cases other
    · exact ⟨_, _, turned, .inl ⟨rfl, halted, .inl rfl⟩⟩
    · cases other
  case h_3 u turned =>
    split at h
    · next halted => cases h; exact ⟨_, _, turned, .inl ⟨rfl, halted, .inr rfl⟩⟩
    · next running => exact ⟨u, _, turned, .inr ⟨h, fun j => by simp only [runLoop, turned, if_neg running]⟩⟩
  case h_4 | h_5 => cases h

/-- What every iteration keeps, a loop that returns keeps. -/
theorem runLoop_keeps {P : State → Prop} (keeps : ∀ {s t turn}, P s → iterate s = .next (t, turn) → P t)
    (start : P s) (h : runLoop k s c = .next (t, count)) : P t := by
  induction k generalizing s c with
  | zero => cases h; exact start
  | succ k ih =>
    obtain ⟨u, turn, turned, ⟨rfl, -, -⟩ | ⟨rest, -⟩⟩ := runLoop_succ_next h
    · exact keeps start turned
    · exact ih (keeps start turned) rest

theorem runLoop_count (h : runLoop k s c = .next (t, count)) :
    count ≤ c + k ∧ (count < c + k → t.halted = true) := by
  induction k generalizing s c with
  | zero => cases h; exact ⟨le_rfl, fun less => absurd less (lt_irrefl _)⟩
  | succ k ih =>
    obtain ⟨u, turn, -, ⟨-, halted, counted⟩ | ⟨rest, -⟩⟩ := runLoop_succ_next h
    · exact ⟨by omega, fun _ => halted⟩
    · obtain ⟨bound, fewer⟩ := ih rest
      exact ⟨by omega, fun less => fewer (by omega)⟩

/-- A loop that returns a core not halted has used its budget up, and a longer one goes on from there. -/
theorem runLoop_add (h : runLoop k s c = .next (t, count)) (running : t.halted = false) (n : Nat) :
    runLoop (k + n) s c = runLoop n t count := by
  induction k generalizing s c with
  | zero => cases h; rw [Nat.zero_add]
  | succ k ih =>
    obtain ⟨u, turn, -, ⟨-, halted, -⟩ | ⟨rest, goesOn⟩⟩ := runLoop_succ_next h
    · rw [running] at halted; cases halted
    · rw [Nat.add_right_comm, goesOn, ih rest]

/-- What was counted before is only added to. -/
theorem runLoop_countedFrom (k done c : Nat) (s : State) :
    runLoop k s (done + c) = countedFrom done (runLoop k s c) := by
  induction k generalizing s c with
  | zero => rfl
  | succ k ih =>
    unfold runLoop
    split
    · exact ih (c + 1) _
    · rfl
    · split
      · rfl
      · exact ih (c + 1) _
    · rfl
    · rfl

theorem runLoop_of_executed_halted (turned : iterate s = .next (t, .executed)) (halted : t.halted = true) :
    runLoop (k + 1) s c = .next (t, c + 1) := by
  simp only [runLoop, turned, halted, if_true]

theorem run_of_initialised (initialised : s.initialised = true) (n : BitVec 32) : run n s = runLoop n.toNat s 0 :=
  if_pos initialised

theorem run_next {n : BitVec 32} (h : run n s = .next (t, count)) :
    s.initialised = true ∧ runLoop n.toNat s 0 = .next (t, count) := by
  unfold run at h
  split at h
  · next initialised => exact ⟨initialised, h⟩
  · cases h

/-- A `Run` that returns a core not halted, and then another, is one longer `Run` (R229). -/
theorem run_add {m n : BitVec 32} (fits : m.toNat + n.toNat < 2 ^ 32) (first : run m s = .next (t, m.toNat))
    (running : t.halted = false) : run (m + n) s = countedFrom m.toNat (run n t) := by
  obtain ⟨initialised, looped⟩ := run_next first
  have still : t.initialised = true :=
    runLoop_keeps (P := fun u => u.initialised = true) (fun _ turned => iterate_initialised turned) initialised looped
  calc run (m + n) s
    _ = runLoop (m.toNat + n.toNat) s 0 := by rw [run_of_initialised initialised, BitVec.toNat_add_of_lt fits]
    _ = runLoop n.toNat t (m.toNat + 0) := runLoop_add looped running _
    _ = countedFrom m.toNat (runLoop n.toNat t 0) := runLoop_countedFrom ..
    _ = countedFrom m.toNat (run n t) := by rw [run_of_initialised still]

end

/-! ### `HALT` as the next instruction -/

section
variable {s : State}

/-- The fetch of an opcode from plain memory or as a device answers, which may trigger an NMI meanwhile. -/
theorem State.fetch8_opcode {b : Byte} (opcode : s.opcodeAtPc b) (noViolation : s.violation = none) :
    s.fetch8.1 = b ∧ s.fetch8.2.violation = none ∧
      (s.isDevice s.pc = true → s.fetch8.2.nmiLatch = (s.nmiLatch || (s.answerTo (.memRead s.pc)).nmi)) := by
  rcases opcode with ⟨plain, byte⟩ | ⟨device, data, call⟩
  · rw [State.fetch8_plain plain]
    exact ⟨byte, noViolation, fun device => absurd (plain.symm.trans device) Bool.false_ne_true⟩
  · simp [State.fetch8, State.memRead, device, data, call, noViolation]

@[simp] theorem State.answerTo_nextDraw (s : State) (request : Config.BusRequest) :
    s.nextDraw.answerTo request = s.answerTo request := rfl

theorem State.fetchInstr_halt (opcode : s.fetch8.1 = 0x76) : s.fetchInstr = (.halt, s.fetch8.2.countR 1) := by
  simp only [State.fetchInstr, opcode]
  rfl

/-- R200: the step halts the core with PC at the `HALT`; an NMI the fetch latched stays latched. -/
theorem iterate_halt (runs : s.runsNext) (opcode : s.opcodeAtPc 0x76) :
    ∃ t, iterate s = .next (t, .executed) ∧ t.halted = true ∧ t.pc = s.pc ∧
      (s.isDevice s.pc = true → t.nmiLatch = (s.answerTo (.memRead s.pc)).nmi) := by
  have declines := runs.poll
  obtain ⟨live, latch, -, running⟩ := runs
  obtain ⟨-, -, noViolation⟩ := id live
  obtain ⟨byte, kept, latched⟩ := State.fetch8_opcode (s := s.nextDraw) opcode noViolation
  have fetched := State.fetchInstr_halt byte
  have quiet : s.nextDraw.fetchInstr.2.violation = none := by simpa [fetched] using kept
  refine ⟨{ s.nextDraw.fetchInstr.2 with pc := s.nextDraw.fetchInstr.2.pc - 1, halted := true },
    iterate_executed live declines running noViolation quiet (by rw [fetched]; rfl) quiet, rfl, ?pc,
    fun device => ?latch⟩
  case pc => simp [fetched]
  case latch => simpa [fetched, latch] using latched device

end

/-- Settles O57: `runLoop_count` bounds the count, `iterate_halt` is the `HALT`, and `run_add` the composition. -/
theorem runCountsItsSteps : Obligations.RunCountsItsSteps := by
  intro n s
  refine ⟨?uninitialised, ?zero, ?count, ?halt, fun m t fits first running => run_add fits first running⟩
  case uninitialised => exact fun uninitialised => if_neg (Bool.eq_false_iff.1 uninitialised)
  case zero => exact fun initialised => run_of_initialised initialised 0
  case count =>
    intro t count returned
    have bound := runLoop_count (run_next returned).2
    rwa [Nat.zero_add] at bound
  case halt =>
    intro nonzero runs opcode
    obtain ⟨t, turned, halted, pc, latch⟩ := iterate_halt runs opcode
    obtain ⟨⟨initialised, -, -⟩, -⟩ := runs
    obtain ⟨k, budget⟩ : ∃ k, n.toNat = k + 1 :=
      Nat.exists_eq_succ_of_ne_zero fun zero => nonzero (BitVec.eq_of_toNat_eq zero)
    have returned : run n s = .next (t, 1) := by
      rw [run_of_initialised initialised, budget, runLoop_of_executed_halted turned halted]
    exact ⟨t, step_of_iterate turned, halted, pc, returned, latch⟩

end Sys2Proof.Machine
end

section
/-!
PROOFS. What the poll does (60_exceptions.md rules R214 to R225), and what the environment can change at it. An answer
changes the two lines, the standing forbidden call, the queue of answers and the record of accesses, and nothing else
(R51, R212, R235): states that agree with those blanked, `State.unasked`, are told apart by no cell and no byte. Each
mode is then one reading rule and the push of the acceptance.
-/

namespace Sys2Proof.Machine

open Sys2Proof

/-! ### What the environment can change -/

/-- The state with everything an answer of the environment changes blanked. -/
def State.unasked (s : State) : State :=
  { s with nmiLatch := false, intLine := false, violation := none, answers := [], trace := [] }

theorem State.unasked_memRead (s : State) (a : Word) : (s.memRead a).2.unasked = s.unasked := by
  unfold State.memRead
  split <;> rfl

theorem State.unasked_memRead16 (s : State) (a : Word) : (s.memRead16 a).2.unasked = s.unasked :=
  ((s.memRead a).2.unasked_memRead (a + 1)).trans (s.unasked_memRead a)

theorem State.unasked_callProvider (s : State) : s.callProvider.2.unasked = s.unasked := rfl

section
variable {s t u : State}

/-- Such states hold the same in every cell and byte, and behind the same Bus. -/
theorem State.kept_of_unasked_eq (same : u.unasked = s.unasked) :
    KeptOutside [] s u ∧ u.mem = s.mem ∧ u.bus = s.bus :=
  ⟨fun cell _ => (congrArg (State.cell · cell) same :), (congrArg State.mem same :), (congrArg State.bus same :)⟩

/-- What an acceptance does is said of no more than that. -/
theorem Accepted.of_unasked_eq {target : Word} {iff2 : Bool} (h : Accepted target iff2 u t)
    (same : u.unasked = s.unasked) : Accepted target iff2 s t := by
  have blanked : Accepted target iff2 u.unasked t := h
  rwa [same] at blanked

theorem State.plainAt_of_unasked_eq (same : u.unasked = s.unasked) (a : Word) : u.plainAt a ↔ s.plainAt a :=
  State.plainAt_congr (congrArg State.bus same :) a

theorem State.pushWrites_of_unasked_eq (same : u.unasked = s.unasked) : u.pushWrites = s.pushWrites :=
  (congrArg State.pushWrites same :)

theorem LinesAfter.trans_kept {answer : Config.Answer} (first : LinesAfter answer s t) (second : LinesKept t u) :
    LinesAfter answer s u := by
  obtain ⟨line, nmi, violation⟩ := second
  rwa [LinesAfter, line, nmi, violation]

theorem LinesKept.trans_after {answer : Config.Answer} (first : LinesKept s t) (second : LinesAfter answer t u) :
    LinesAfter answer s u := by
  obtain ⟨line, nmi, violation⟩ := first
  rwa [LinesAfter, line, nmi, violation] at second

theorem State.callProvider_linesAfter (s : State) : LinesAfter (s.answerTo .provider) s s.callProvider.2 :=
  ⟨rfl, rfl, rfl⟩

theorem State.memRead_linesKept {a : Word} (plain : s.plainAt a) : LinesKept s (s.memRead a).2 := by
  rw [State.memRead_quiet s plain]
  exact ⟨rfl, rfl, rfl⟩

theorem State.memRead16_linesKept {a : Word} (lo : s.plainAt a) (hi : s.plainAt (a + 1)) :
    LinesKept s (s.memRead16 a).2 :=
  (State.memRead_linesKept lo).trans
    (State.memRead_linesKept ((State.plainAt_of_unasked_eq (s.unasked_memRead a) _).2 hi))

/-- A push into plain memory leaves the queue of answers (log 5). -/
theorem State.push16_answers (v : Word) (hi : s.plainAt (s.sp - 1)) (lo : s.plainAt (s.sp - 2)) :
    (s.push16 v).answers = s.answers := by
  have lo' : s.plainAt (s.sp - 1 - 1) := (word_sub_two s.sp).symm ▸ lo
  rw [State.push16, State.memWrite_plain (s.setSp (s.sp - 1)) _ hi]
  rw [State.memWrite_plain]
  · rfl
  · exact lo'

theorem State.takeInterrupt_answers (target : Word) (iff2 : Bool) (hi : s.plainAt (s.sp - 1))
    (lo : s.plainAt (s.sp - 2)) : (s.takeInterrupt target iff2).answers = s.answers := by
  have sp : s.acceptPrologue.sp = s.sp := by simp
  have kept := s.acceptPrologue.push16_answers s.acceptPrologue.pc
    (by rwa [sp, State.acceptPrologue_plainAt]) (by rwa [sp, State.acceptPrologue_plainAt])
  simpa [State.takeInterrupt] using kept

end

/-! ### The poll, mode by mode -/

section
variable {s : State}

theorem State.poll_mode0 (latch : s.nmiLatch = false) (line : s.intLine = true) (enabled : s.iff1 = true)
    (mode : s.im = .im0) : s.poll = s.acceptMode0 := by
  simp [State.poll, latch, line, enabled, mode]

theorem State.poll_mode2 (latch : s.nmiLatch = false) (line : s.intLine = true) (enabled : s.iff1 = true)
    (mode : s.im = .im2) : s.poll = s.acceptMode2 := by
  simp [State.poll, latch, line, enabled, mode]

theorem State.callProvider_selects (selects : (s.answerTo .provider).declined = false) :
    s.callProvider.1 = some (s.answerTo .provider).data ∧
      s.callProvider.2.trace = .provider (some (s.answerTo .provider).data) :: s.trace := by
  simp [State.callProvider, selects]

theorem State.callProvider_declines (declines : (s.answerTo .provider).declined = true) : s.callProvider.1 = none := by
  simp [State.callProvider, declines]

/-- R217: the byte selected is an `RST`. -/
theorem State.acceptMode0_accepts {b : Byte} (provider : s.provider = true) (selected : s.callProvider.1 = some b)
    (restart : b &&& 0xC7 = 0xC7) :
    s.acceptMode0 = (s.callProvider.2.takeInterrupt (joinBytes 0 (b &&& 0x38)) false, true) := by
  simp only [State.acceptMode0, provider, selected, restart, if_true]

/-- R219: the vector is read before the push. -/
theorem State.acceptMode2_accepts {b : Byte} (provider : s.provider = true) (selected : s.callProvider.1 = some b) :
    s.acceptMode2 =
      ((s.callProvider.2.memRead16 (joinBytes s.i b)).2.takeInterrupt
        (s.callProvider.2.memRead16 (joinBytes s.i b)).1 false, true) := by
  simp [State.acceptMode2, provider, selected]

theorem State.acceptMode1_of_provider (provider : s.provider = true) :
    s.acceptMode1 = (s.takeInterrupt 0x0038 false).callProvider.2 := by
  simp [State.acceptMode1, provider]

end

/-! ### The maskable interrupt -/

section
variable {s : State}

/-- The push of an acceptance, whose state a read or the provider has left before. -/
theorem State.takeInterrupt_trace_of_unasked_eq {u : State} (target : Word) (iff2 : Bool)
    (same : u.unasked = s.unasked) : (u.takeInterrupt target iff2).trace = s.pushWrites ++ u.trace := by
  obtain ⟨-, trace, -, -⟩ := u.takeInterrupt_pushed target iff2
  rw [← State.pushWrites_of_unasked_eq same]
  exact trace

theorem State.takeInterrupt_linesKept_of_unasked_eq {u : State} (target : Word) (iff2 : Bool)
    (same : u.unasked = s.unasked) (stack : s.plainAt (s.sp - 1) ∧ s.plainAt (s.sp - 2)) :
    LinesKept u (u.takeInterrupt target iff2) := by
  have sp : u.sp = s.sp := (congrArg State.sp same :)
  obtain ⟨hi, lo⟩ := stack
  refine u.takeInterrupt_linesKept target iff2 ?_ ?_ <;> rwa [State.plainAt_of_unasked_eq same, sp]

/-- R217, with the provider's answer an `RST`. -/
theorem State.acceptMode0_accepted (provider : s.provider = true) (selects : (s.answerTo .provider).declined = false)
    (restart : (s.answerTo .provider).data &&& 0xC7 = 0xC7) :
    ∃ t, s.acceptMode0 = (t, true) ∧
      Accepted (joinBytes 0x00 ((s.answerTo .provider).data &&& 0x38)) false s t ∧
      t.trace = s.pushWrites ++ .provider (some (s.answerTo .provider).data) :: s.trace ∧
      (s.plainAt (s.sp - 1) ∧ s.plainAt (s.sp - 2) → LinesAfter (s.answerTo .provider) s t) := by
  obtain ⟨selected, asked⟩ := State.callProvider_selects selects
  refine ⟨_, State.acceptMode0_accepts provider selected restart,
    (State.takeInterrupt_accepted ..).of_unasked_eq s.unasked_callProvider, ?_, fun stack => ?_⟩
  · rw [State.takeInterrupt_trace_of_unasked_eq _ _ s.unasked_callProvider, asked]
  · exact s.callProvider_linesAfter.trans_kept
      (State.takeInterrupt_linesKept_of_unasked_eq _ _ s.unasked_callProvider stack)

/-- R218, with a provider: it is called in the state the acceptance left. -/
theorem State.acceptMode1_asks (provider : s.provider = true) :
    (∃ b, s.acceptMode1.trace = .provider b :: (s.pushWrites ++ s.trace)) ∧
    (s.plainAt (s.sp - 1) ∧ s.plainAt (s.sp - 2) →
      LinesAfter (State.answerTo { s with trace := s.pushWrites ++ s.trace } .provider) s s.acceptMode1) := by
  rw [State.acceptMode1_of_provider provider]
  have pushed : (s.takeInterrupt 0x0038 false).trace = s.pushWrites ++ s.trace :=
    State.takeInterrupt_trace_of_unasked_eq _ _ rfl
  refine ⟨⟨(s.takeInterrupt 0x0038 false).callProvider.1, ?_⟩, fun stack => ?_⟩
  · rw [← pushed]
    rfl
  · have answer : (s.takeInterrupt 0x0038 false).answerTo .provider =
        State.answerTo { s with trace := s.pushWrites ++ s.trace } .provider := by
      simp only [State.answerTo, State.takeInterrupt_answers _ _ stack.1 stack.2, pushed]
    rw [← answer]
    exact (s.takeInterrupt_linesKept _ _ stack.1 stack.2).trans_after (State.callProvider_linesAfter _)

/-- R219, with the provider's answer the low byte of the pointer. -/
theorem State.acceptMode2_accepted (provider : s.provider = true) (selects : (s.answerTo .provider).declined = false) :
    let pointer := joinBytes s.i (s.answerTo .provider).data
    ∃ t vector, s.acceptMode2 = (t, true) ∧ Accepted vector false s t ∧
      t.trace = s.pushWrites ++ .memRead (pointer + 1) (hiByte vector) :: .memRead pointer (loByte vector) ::
        .provider (some (s.answerTo .provider).data) :: s.trace ∧
      (s.plainAt pointer → loByte vector = s.byteAt pointer) ∧
      (s.plainAt (pointer + 1) → hiByte vector = s.byteAt (pointer + 1)) ∧
      (s.plainAt (s.sp - 1) ∧ s.plainAt (s.sp - 2) → s.plainAt pointer → s.plainAt (pointer + 1) →
        LinesAfter (s.answerTo .provider) s t) := by
  intro pointer
  obtain ⟨selected, asked⟩ := State.callProvider_selects selects
  obtain ⟨read, lo, hi⟩ := s.callProvider.2.memRead16_loaded pointer
  have same : (s.callProvider.2.memRead16 pointer).2.unasked = s.unasked := s.callProvider.2.unasked_memRead16 pointer
  refine ⟨_, _, State.acceptMode2_accepts provider selected, (State.takeInterrupt_accepted ..).of_unasked_eq same, ?_,
    lo, hi, fun stack plainLo plainHi => ?_⟩
  · rw [State.takeInterrupt_trace_of_unasked_eq _ _ same, read, asked]
  · have vectorRead : LinesKept s.callProvider.2 (s.callProvider.2.memRead16 pointer).2 :=
      State.memRead16_linesKept plainLo plainHi
    exact (s.callProvider_linesAfter.trans_kept vectorRead).trans_kept
      (State.takeInterrupt_linesKept_of_unasked_eq _ _ same stack)

end

/-- Settles O52: the poll is the acceptance of its mode, and the step is the poll. -/
theorem maskableInterruptIsAcceptedByMode : Obligations.MaskableInterruptIsAcceptedByMode := by
  intro s live latch line enabled
  refine ⟨fun mode provider selects restart => ?mode0, fun mode => ?mode1, fun mode provider selects => ?mode2⟩
  case mode0 =>
    obtain ⟨t, accepts, accepted⟩ := State.acceptMode0_accepted (s := s.nextDraw) provider selects restart
    rw [← State.poll_mode0 (s := s.nextDraw) latch line enabled mode] at accepts
    exact ⟨t, step_of_poll_accepts live accepts, accepted⟩
  case mode1 =>
    have accepts := State.poll_mode1 (s := s.nextDraw) latch line enabled mode
    refine ⟨_, step_of_poll_accepts live accepts, s.nextDraw.acceptMode1_accepted, fun noProvider => ?_,
      fun provider => State.acceptMode1_asks (s := s.nextDraw) provider⟩
    rw [State.acceptMode1_of_noProvider (s := s.nextDraw) noProvider]
    exact ⟨State.takeInterrupt_trace_of_unasked_eq (s := s.nextDraw) _ _ rfl,
      fun stack => s.nextDraw.takeInterrupt_linesKept _ _ stack.1 stack.2⟩
  case mode2 =>
    obtain ⟨t, vector, accepts, accepted⟩ := State.acceptMode2_accepted (s := s.nextDraw) provider selects
    rw [← State.poll_mode2 (s := s.nextDraw) latch line enabled mode] at accepts
    exact ⟨t, vector, step_of_poll_accepts live accepts, accepted⟩

/-! ### The return from an NMI -/

theorem State.pop16_plain {s : State} (lo : s.plainAt s.sp) (hi : s.plainAt (s.sp + 1)) :
    s.pop16.1 = joinBytes (s.byteAt (s.sp + 1)) (s.byteAt s.sp) := by
  obtain ⟨-, -, loRead, hiRead⟩ := s.pop16_popped
  rw [← loRead lo, ← hiRead hi, joinBytes_hiByte_loByte]

/-- The pop of a return reads the two bytes the acceptance stored. -/
theorem State.acceptNmi_pop16 {s : State} (hi : s.plainAt (s.sp - 1)) (lo : s.plainAt (s.sp - 2)) :
    s.acceptNmi.pop16.1 = s.returnAddress := by
  have plain (a : Word) : s.acceptNmi.plainAt a ↔ s.plainAt a := State.plainAt_congr (by simp [State.acceptNmi]) a
  have next : s.sp - 2 + 1 = s.sp - 1 := by bv_omega
  obtain ⟨sp, -, hiStored, loStored⟩ : Pushed s.returnAddress s s.acceptNmi := s.takeInterrupt_pushed 0x0066 s.iff1
  rw [State.pop16_plain (by rwa [sp, plain]) (by rwa [sp, next, plain]), sp, next, hiStored hi, loStored lo,
    joinBytes_hiByte_loByte]

/-- Settles O56: the pop of `RETN` reads back the pushed address, and IFF1 comes back from IFF2. -/
theorem returnUndoesAnNmi : Obligations.ReturnUndoesAnNmi := by
  intro s live latched hi lo
  obtain ⟨-, -, noViolation⟩ := id live
  obtain ⟨-, -, violation⟩ := s.nextDraw.takeInterrupt_linesKept 0x0066 s.iff1 hi lo
  have quiet : s.nextDraw.acceptNmi.violation = none := violation.trans noViolation
  have stepped : step s = .next s.nextDraw.acceptNmi := by
    rw [step_of_poll_accepts live (if_pos latched), endOfStep]
    simp only [quiet]
  have popped : s.nextDraw.acceptNmi.pop16.1 = s.returnAddress := State.acceptNmi_pop16 (s := s.nextDraw) hi lo
  refine ⟨_, _, stepped, rfl, popped, ?_, ?_, ?_, ?_⟩ <;> simp [State.acceptNmi]

end Sys2Proof.Machine
end

section
/-!
PROOFS. The fetch of an instruction from plain memory (30_encoding.md rules R53, R65, R70; 10_state.md rules R20, R26)
and the poll that turns a request away (60_exceptions.md rules R214, R217, R219, R220): the step then goes on from what
the poll left, which is what it found but for an answer of the provider.
-/

namespace Sys2Proof

open Machine

/-! ### The bytes the decoder needs -/

/-- Before a byte that makes a `DD` or `FD` ignored, every instruction decodes from its encoding alone (R65). -/
theorem encode_injective {i j : Instr} (hi : i.wf = true) (hj : j.wf = true) (same : i.encode = j.encode) : i = j := by
  have decoded (k : Instr) (wf : k.wf = true) : decode (k.encode ++ [0x00]) = .ok (k, [0x00]) :=
    decodeUndoesEncode k [0x00] wf (Instr.mayBefore_iff.2 fun _ _ => ⟨0x00, [], rfl, rfl⟩)
  have both := (decoded i hi).symm.trans (same ▸ decoded j hj)
  simp only [Except.ok.injEq, Prod.mk.injEq, and_true] at both
  exact both

/-- The decoder reads no byte past the instruction. -/
theorem decodeBytes_congr {b0 b1 b2 b3 c1 c2 c3 : Byte} (length : instrLength b0 c1 = instrLength b0 b1)
    (same : [b0, c1, c2, c3].take (instrLength b0 b1) = [b0, b1, b2, b3].take (instrLength b0 b1)) :
    decodeBytes b0 c1 c2 c3 = decodeBytes b0 b1 b2 b3 := by
  have entry := decodeBytes_isEntry b0 b1 b2 b3
  have entry' := decodeBytes_isEntry b0 c1 c2 c3
  exact encode_injective entry'.wf entry.wf (by rw [entry'.encode, entry.encode, length, same])

theorem opcodeFetches_of_base {b0 : Byte} (base : selectsMap b0 = false) (b1 : Byte) : opcodeFetches b0 b1 = 1 := by
  obtain ⟨cb, ed, dd, fd⟩ := selectsMap_eq_false_iff.1 base
  simp only [opcodeFetches, cb, ed, dd, fd, or_self, if_false]

theorem opcodeFetches_of_map {b0 : Byte} (map : selectsMap b0 = true) (b1 : Byte) :
    opcodeFetches b0 b1 = if instrLength b0 b1 = 1 then 1 else 2 := by
  obtain rfl | rfl | ⟨i, rfl⟩ := selectsMap_eq_true map
  · rfl
  · have other : edLength b1 ≠ 1 := by rw [edLength_eq]; split <;> decide
    exact (if_neg other).symm
  · rw [instrLength_idx, if_congr (ddLength_bounds b1).2.2 rfl rfl]
    cases i <;> rfl

end Sys2Proof

namespace Sys2Proof.Machine

open Sys2Proof

/-! ### Fetches from plain memory -/

/-- What n fetches from plain memory leave. -/
def State.pastBytes (n : Nat) (s : State) : State :=
  { s with pc := s.pc + BitVec.ofNat 16 n, trace := s.readsFrom s.pc n ++ s.trace }

theorem State.readsFrom_congr {s t : State} (mem : t.mem = s.mem) (a : Word) (n : Nat) :
    t.readsFrom a n = s.readsFrom a n := by
  induction n generalizing a with
  | zero => rfl
  | succ n ih => simp only [State.readsFrom, ih, State.byteAt, mem]

theorem State.bytesAt_congr {s t : State} (mem : t.mem = s.mem) (a : Word) (n : Nat) :
    t.bytesAt a n = s.bytesAt a n := by
  induction n generalizing a with
  | zero => rfl
  | succ n ih => simp only [State.bytesAt, ih, State.byteAt, mem]

theorem word_add_ofNat_succ (a : Word) (n : Nat) : a + 1 + BitVec.ofNat 16 n = a + BitVec.ofNat 16 (n + 1) := by
  apply BitVec.eq_of_toNat_eq
  simp
  omega

theorem State.pastBytes_fetch8 {s : State} (plain : s.plainAt s.pc) (n : Nat) :
    s.fetch8.2.pastBytes n = s.pastBytes (n + 1) := by
  have reads : s.fetch8.2.readsFrom (s.pc + 1) n = s.readsFrom (s.pc + 1) n := State.readsFrom_congr (by simp) _ _
  rw [State.fetch8_plain plain] at reads ⊢
  simp only [State.pastBytes, State.setPc_fields, reads, word_add_ofNat_succ, State.readsFrom, List.append_assoc]
  rfl

/-- Each fetch is the byte at PC, and the next one's PC is one further. -/
theorem State.fetchBytes_plain {n : Nat} {s : State} (plain : ∀ k < n, s.plainAt (s.pc + BitVec.ofNat 16 k)) :
    State.fetchBytes n s = (s.bytesAt s.pc n, s.pastBytes n) := by
  induction n generalizing s with
  | zero => simp [State.fetchBytes, State.bytesAt, State.pastBytes, State.readsFrom]
  | succ n ih =>
    have first : s.plainAt s.pc := by simpa using plain 0 (Nat.succ_pos n)
    have rest : State.fetchBytes n s.fetch8.2 = (s.bytesAt (s.pc + 1) n, s.pastBytes (n + 1)) := by
      rw [ih fun k hk => ?later, State.pastBytes_fetch8 first, State.bytesAt_congr (s := s) (by simp)]
      · simp
      case later =>
        have later := plain (k + 1) (Nat.succ_lt_succ hk)
        rw [← word_add_ofNat_succ] at later
        simpa [State.plainAt_congr (s := s) (t := s.fetch8.2) (by simp)] using later
    have byte : s.fetch8.1 = s.byteAt s.pc := by rw [State.fetch8_plain first]
    simp only [State.fetchBytes, rest, State.bytesAt, byte]

theorem State.take_bytesAt (s : State) {m n : Nat} (le : m ≤ n) (a : Word) :
    (s.bytesAt a n).take m = s.bytesAt a m := by
  induction n generalizing a m with
  | zero => cases le; rfl
  | succ n ih =>
    cases m with
    | zero => rfl
    | succ m => rw [State.bytesAt, List.take_succ_cons, ih (Nat.le_of_succ_le_succ le), State.bytesAt]

section
variable {s : State} {b0 b1 b2 b3 : Byte}

/-- The first n of the four bytes. -/
theorem State.fetchBytes_eq_take (plain : s.plainFetch) (bytes : s.bytesAt s.pc 4 = [b0, b1, b2, b3]) {n : Nat}
    (few : n ≤ 4) : State.fetchBytes n s = ([b0, b1, b2, b3].take n, s.pastBytes n) := by
  rw [State.fetchBytes_plain fun k hk => plain k (hk.trans_le few), ← bytes, State.take_bytesAt s few]

/-- A fetch of n + 1 bytes is one of the first and one of the others. -/
theorem State.fetch8_of_fetchBytes {n : Nat} {b : Byte} {bytes : List Byte} {t : State}
    (fetched : State.fetchBytes (n + 1) s = (b :: bytes, t)) :
    s.fetch8.1 = b ∧ State.fetchBytes n s.fetch8.2 = (bytes, t) := by
  simpa [State.fetchBytes, and_assoc, Prod.ext_iff] using fetched

/-- `State.afterFetch` as the fetch reaches it: the bytes seen, PC set past the instruction, R counted. -/
theorem State.afterFetch_decodeBytes (bytes : s.bytesAt s.pc 4 = [b0, b1, b2, b3]) :
    s.afterFetch (decodeBytes b0 b1 b2 b3) =
      ((s.pastBytes (bytesSeen b0 b1)).setPc (s.pc + BitVec.ofNat 16 (instrLength b0 b1))).countR
        (opcodeFetches b0 b1) := by
  simp only [State.bytesAt, List.cons.injEq] at bytes
  obtain ⟨rfl, rfl, -⟩ := bytes
  rw [State.afterFetch, length_encode_decodeBytes, State.countR]
  cases model : s.params.rModel <;> simp [State.pastBytes, State.setPc, model]

/-- R65: the byte after a map-selecting one is looked at in every case, and PC is backed up to it if the first byte was
the whole instruction. -/
theorem State.fetchInstr_plain_of_map (plain : s.plainFetch) (bytes : s.bytesAt s.pc 4 = [b0, b1, b2, b3])
    (map : selectsMap b0 = true) :
    s.fetchInstr = (decodeBytes b0 b1 b2 b3, s.afterFetch (decodeBytes b0 b1 b2 b3)) := by
  obtain ⟨low, high⟩ := instrLength_bounds b0 b1
  obtain ⟨first, others⟩ := State.fetch8_of_fetchBytes
    (State.fetchBytes_eq_take plain bytes (n := instrLength b0 b1 - 2 + 1 + 1) (by omega))
  obtain ⟨second, rest⟩ := State.fetch8_of_fetchBytes others
  have instr : decodeBytes b0 b1 (([b2, b3].take (instrLength b0 b1 - 2)).getD 0 0)
      (([b2, b3].take (instrLength b0 b1 - 2)).getD 1 0) = decodeBytes b0 b1 b2 b3 := by
    refine decodeBytes_congr rfl ?_
    generalize instrLength b0 b1 = length at low high
    interval_cases length <;> rfl
  rw [State.afterFetch_decodeBytes bytes, opcodeFetches_of_map map, bytesSeen, if_pos map]
  simp only [State.fetchInstr, first, map, if_true, second, rest, instr]
  split
  · next one =>
    have back : s.pc + BitVec.ofNat 16 2 - 1 = s.pc + BitVec.ofNat 16 1 := by bv_omega
    rw [one, ← back]
    rfl
  · next more =>
    have seen : instrLength b0 b1 - 2 + 1 + 1 = max 2 (instrLength b0 b1) := by omega
    have length : max 2 (instrLength b0 b1) = instrLength b0 b1 := by omega
    rw [seen, length]
    rfl

theorem State.fetchInstr_plain_of_base (plain : s.plainFetch) (bytes : s.bytesAt s.pc 4 = [b0, b1, b2, b3])
    (base : selectsMap b0 = false) :
    s.fetchInstr = (decodeBytes b0 b1 b2 b3, s.afterFetch (decodeBytes b0 b1 b2 b3)) := by
  obtain ⟨low, high⟩ := baseLength_bounds b0
  obtain ⟨first, rest⟩ := State.fetch8_of_fetchBytes
    (State.fetchBytes_eq_take plain bytes (n := baseLength b0 - 1 + 1) (by omega))
  have instr : decodeBytes b0 (([b1, b2, b3].take (baseLength b0 - 1)).getD 0 0)
      (([b1, b2, b3].take (baseLength b0 - 1)).getD 1 0) 0 = decodeBytes b0 b1 b2 b3 := by
    refine decodeBytes_congr (by rw [instrLength_base base, instrLength_base base]) ?_
    rw [instrLength_base base]
    generalize baseLength b0 = length at low high
    interval_cases length <;> rfl
  rw [State.afterFetch_decodeBytes bytes, opcodeFetches_of_base base, bytesSeen, base]
  simp only [State.fetchInstr, first, base, Bool.false_eq_true, if_false, instrLength_base base, rest, instr]
  rw [Nat.sub_add_cancel low]
  rfl

/-- A fetch from plain memory reads the instruction that the bytes there decode to. -/
theorem State.fetchInstr_plain {i : Instr} {rest : List Byte} (plain : s.plainFetch)
    (decoded : decode (s.bytesAt s.pc 4) = .ok (i, rest)) : s.fetchInstr = (i, s.afterFetch i) := by
  obtain ⟨-, rfl, -⟩ := decode_cons_eq_ok_iff.1 decoded
  cases map : selectsMap (s.byteAt s.pc)
  · exact State.fetchInstr_plain_of_base plain rfl map
  · exact State.fetchInstr_plain_of_map plain rfl map

end

/-! ### The poll that turns a request away -/

section
variable {s u : State}

theorem State.acceptMode0_turnsAway (provider : s.provider = true)
    (invalid : (s.answerTo .provider).declined = true ∨ (s.answerTo .provider).data &&& 0xC7 ≠ 0xC7) :
    s.acceptMode0 = (s.callProvider.2, false) := by
  cases declined : (s.answerTo .provider).declined with
  | true => simp only [State.acceptMode0, provider, if_true, State.callProvider_declines declined]
  | false =>
    obtain ⟨selected, -⟩ := State.callProvider_selects declined
    have other : (s.answerTo .provider).data &&& 0xC7 ≠ 0xC7 := invalid.resolve_left (by simp [declined])
    simp only [State.acceptMode0, provider, if_true, selected, if_neg other]

theorem State.acceptMode2_turnsAway (provider : s.provider = true)
    (declines : (s.answerTo .provider).declined = true) : s.acceptMode2 = (s.callProvider.2, false) := by
  simp only [State.acceptMode2, provider, if_true, State.callProvider_declines declines]

theorem State.acceptMode0_of_noProvider (noProvider : s.provider = false) : s.acceptMode0 = (s, false) :=
  if_neg (Bool.eq_false_iff.1 noProvider)

theorem State.acceptMode2_of_noProvider (noProvider : s.provider = false) : s.acceptMode2 = (s, false) :=
  if_neg (Bool.eq_false_iff.1 noProvider)

/-- Nothing is asked, or the provider alone (R217, R219, R220). -/
theorem State.poll_of_turnsAway (latch : s.nmiLatch = false) (away : s.turnsAway) :
    s.poll = (s, false) ∨ s.provider = true ∧ s.poll = (s.callProvider.2, false) := by
  cases pending : s.intLine && s.iff1 with
  | false => exact .inl (by simp only [State.poll, latch, pending, Bool.false_eq_true, if_false])
  | true =>
    obtain ⟨line, enabled⟩ := Bool.and_eq_true_iff.1 pending
    rcases away with noLine | disabled | ⟨mode, invalid⟩ | ⟨mode, invalid⟩
    · exact absurd (noLine.symm.trans line) Bool.false_ne_true
    · exact absurd (disabled.symm.trans enabled) Bool.false_ne_true
    · rw [State.poll_mode0 latch line enabled mode]
      cases provider : s.provider with
      | false => exact .inl (State.acceptMode0_of_noProvider provider)
      | true => exact .inr ⟨rfl, State.acceptMode0_turnsAway provider (invalid.resolve_left (by simp [provider]))⟩
    · rw [State.poll_mode2 latch line enabled mode]
      cases provider : s.provider with
      | false => exact .inl (State.acceptMode2_of_noProvider provider)
      | true => exact .inr ⟨rfl, State.acceptMode2_turnsAway provider (invalid.resolve_left (by simp [provider]))⟩

/-- Either way the poll leaves the lines as the provider's answer does, and all else as it was (R214, R220). -/
theorem State.poll_turnsAway (latch : s.nmiLatch = false) (away : s.turnsAway) :
    ∃ u, s.poll = (u, false) ∧ u.unasked = s.unasked ∧
      (s.provider = false ∨ (s.answerTo .provider).line = none → u.intLine = s.intLine) ∧
      (s.provider = false ∨ (s.answerTo .provider).call = none → u.violation = s.violation) := by
  rcases State.poll_of_turnsAway latch away with same | ⟨provider, asked⟩
  · exact ⟨s, same, rfl, fun _ => rfl, fun _ => rfl⟩
  · obtain ⟨line, -, violation⟩ := s.callProvider_linesAfter
    refine ⟨_, asked, s.unasked_callProvider, fun kept => ?_, fun kept => ?_⟩
    · rw [line, kept.resolve_left (by simp [provider]), Option.getD_none]
    · rw [violation, kept.resolve_left (by simp [provider]), Option.or_none]

/-- The idle turn of a halted core (R229). -/
theorem iterate_idle (live : s.live) (declines : s.nextDraw.poll = (u, false)) (halted : u.halted = true)
    (polled : u.violation = none) : iterate s = .next (u, .idle) := by
  obtain ⟨initialised, written, -⟩ := live
  simp [iterate, initialised, written, declines, halted, polled]

theorem exists_toNat_eq_succ {n : BitVec 32} (nonzero : n ≠ 0) : ∃ k, n.toNat = k + 1 :=
  Nat.exists_eq_succ_of_ne_zero fun zero => nonzero (BitVec.eq_of_toNat_eq zero)

theorem run_of_idle (live : s.live) (turned : iterate s = .next (u, .idle)) {n : BitVec 32} (nonzero : n ≠ 0) :
    run n s = .next (u, 0) := by
  obtain ⟨initialised, -⟩ := live
  obtain ⟨k, budget⟩ := exists_toNat_eq_succ nonzero
  simp only [run_of_initialised initialised, budget, runLoop, turned]

theorem step_plain {i : Instr} {rest : List Byte} (live : s.live) (declines : s.nextDraw.poll = (u, false))
    (running : u.halted = false) (polled : u.violation = none) (plain : u.plainFetch)
    (decoded : decode (u.bytesAt u.pc 4) = .ok (i, rest)) : step s = endOfStep (exec i (u.afterFetch i)) := by
  rw [step_of_poll_declines live declines running polled, State.fetchInstr_plain plain decoded]
  exact State.unlessViolated_none _ polled

end

/-- Settles O53: the poll leaves all the step then uses, so a halted core is idle and any other runs its instruction. -/
theorem invalidSelectorAcceptsNothing : Obligations.InvalidSelectorAcceptsNothing := by
  intro s latch away
  obtain ⟨u, declines, same, line, violation⟩ := State.poll_turnsAway (s := s.nextDraw) latch away
  obtain ⟨cells, mem, bus⟩ := State.kept_of_unasked_eq same
  have halted : u.halted = s.halted := (congrArg State.halted same :)
  refine ⟨u, declines, cells, mem, bus, line, violation,
    fun live polled => ⟨fun atHalt => ?_, fun running i rest plain decoded => ?_⟩⟩
  · have turned := iterate_idle live declines (halted.trans atHalt) polled
    exact ⟨step_of_iterate turned, fun n => run_of_idle live turned⟩
  · have plainFetch : u.plainFetch := (congrArg State.plainFetch same :).mpr plain
    have bytes : u.bytesAt u.pc 4 = s.bytesAt s.pc 4 := (congrArg (fun v : State => v.bytesAt v.pc 4) same :)
    exact step_plain live declines (halted.trans running) polled plainFetch (bytes ▸ decoded)

end Sys2Proof.Machine
end

section
/-!
PROOFS. `Run` to its end, and the host calls around it (60_exceptions.md rules R208, R229 to R236). What an iteration
keeps, what it can end in and how many answers it uses up are each said once of `iterate`; a `Run` is an induction over
them. A forbidden call made at the poll or at the first fetch stands until the step ends in it (R235).
-/

namespace Sys2Proof.Machine

open Sys2Proof

/-! ### What an iteration keeps -/

/-- The administrative state, the mark of the control cells and the open parameters are kept, and so is the canonical
form of plain memory (10_state.md rule R32; logs 1, 2, 7). -/
def KeepsSetup (s t : State) : Prop :=
  t.initialised = s.initialised ∧ t.bus = s.bus ∧ t.provider = s.provider ∧ t.controlWritten = s.controlWritten ∧
  t.params = s.params ∧ (Memory.wf s.mem = true → Memory.wf t.mem = true)

section
variable {s t u : State} {turn : Turn} {n k c : Nat}

theorem KeepsSetup.trans (first : KeepsSetup s t) (second : KeepsSetup t u) : KeepsSetup s u := by
  obtain ⟨initialised, bus, provider, written, params, wf⟩ := first
  obtain ⟨initialised', bus', provider', written', params', wf'⟩ := second
  exact ⟨initialised'.trans initialised, bus'.trans bus, provider'.trans provider, written'.trans written,
    params'.trans params, wf' ∘ wf⟩

theorem Accesses.wf {stored : List Word} {port : Bool} (h : Accesses stored port s t)
    (canonical : Memory.wf s.mem = true) : Memory.wf t.mem = true := by
  induction h with
  | refl => exact canonical
  | registers _ same ih =>
    obtain ⟨-, -, -, -, -, -, -, mem, -⟩ := State.fields_of_outside_eq same
    exact mem ▸ ih
  | read _ a ih => simpa using ih
  | write _ a v _ ih => exact State.memWrite_wf _ a v ih
  | portRead _ _ _ ih => simpa using ih
  | portWrite _ _ _ _ ih => simpa using ih

theorem exec_keepsSetup {i : Instr} (next : exec i s = .next t) : KeepsSetup s t := by
  obtain ⟨initialised, bus, provider, written, params, -⟩ := (exec_accesses next).fields_eq
  exact ⟨initialised, bus, provider, written, params, (exec_accesses next).wf⟩

theorem State.fetchInstr_keepsSetup (s : State) : KeepsSetup s s.fetchInstr.2 := by simp [KeepsSetup]

theorem State.poll_keepsSetup (s : State) : KeepsSetup s s.poll.1 := by
  refine ⟨s.poll_initialised, ?_, ?_, ?_, s.poll_params, s.poll_wf⟩
  all_goals
    unfold State.poll State.acceptNmi State.acceptMode0 State.acceptMode1 State.acceptMode2
    simp only []
    repeat' split
    all_goals simp

theorem iterate_keepsSetup (h : iterate s = .next (t, turn)) : KeepsSetup s t := by
  obtain ⟨-, -, -, ended⟩ := iterate_next h
  have polled : KeepsSetup s s.nextDraw.poll.1 := s.nextDraw.poll_keepsSetup
  rcases ended with ⟨-, accepts⟩ | ⟨-, declines, -⟩ | ⟨-, u, declines, -, -, -, next⟩
  · rwa [accepts] at polled
  · rwa [declines] at polled
  · rw [declines] at polled
    exact polled.trans (u.fetchInstr_keepsSetup.trans (exec_keepsSetup next))

/-- With the setup kept and no forbidden call standing, a core stays live and within the invariant. -/
theorem iterate_live (live : s.live) (h : iterate s = .next (t, turn)) : t.live := by
  obtain ⟨initialised, -, -, written, -⟩ := iterate_keepsSetup h
  obtain ⟨-, -, noViolation, -⟩ := iterate_next h
  obtain ⟨wasInitialised, wasWritten, -⟩ := live
  exact ⟨initialised.trans wasInitialised, written.trans wasWritten, noViolation⟩

theorem iterate_inv (inv : s.Inv) (h : iterate s = .next (t, turn)) : t.Inv := by
  obtain ⟨initialised, bus, provider, -, -, wf⟩ := iterate_keepsSetup h
  obtain ⟨-, -, noViolation, -⟩ := iterate_next h
  obtain ⟨canonical, hasBus, hasProvider, -⟩ := inv
  rw [State.Inv, initialised, bus, provider]
  exact ⟨wf canonical, hasBus, hasProvider, noViolation⟩

theorem iterate_params (h : iterate s = .next (t, turn)) : t.params = s.params := by
  obtain ⟨-, -, -, -, params, -⟩ := iterate_keepsSetup h
  exact params

/-! ### What an iteration can end in -/

/-- Under Silicon an iteration of a live core goes on or ends in a forbidden call, as its step does. -/
theorem iterate_cases (live : s.live) (silicon : s.params.undocOps = .silicon) :
    (∃ t turn, iterate s = .next (t, turn)) ∨
    (s.stepViolated ∧ ∃ call, iterate s = .fault (.preconditionViolation call)) := by
  have ended := step_cases live
  unfold step at ended
  cases turned : iterate s with
  | next p => exact .inl ⟨p.1, p.2, rfl⟩
  | fault f => simpa [turned] using ended
  | refused r => simp [turned, silicon] at ended

/-- An iteration uses up seven answers at most, and what it leaves has the rest. -/
theorem iterate_calm (calm : s.Calm (n + 7)) (h : iterate s = .next (t, turn)) : t.Calm n := by
  have atPoll : s.nextDraw.Calm (n + 2 + 5) := calm
  obtain ⟨polled, declined⟩ := atPoll.poll
  obtain ⟨-, -, -, ended⟩ := iterate_next h
  rcases ended with ⟨-, accepts⟩ | ⟨-, declines, -⟩ | ⟨-, u, declines, -, -, -, next⟩
  · rw [accepts] at polled
    exact polled.mono (by omega)
  · rw [declines] at polled
    exact polled.mono (by omega)
  · rw [declines] at declined
    have running : u.Calm (n + 6) := declined rfl
    obtain ⟨b0, b1, b2, b3, decoded, fetch⟩ := u.fetchInstr_calm
    have few := bytesSeen_add_mostAccesses_le b0 b1 b2 b3
    have fetched : u.fetchInstr.2.Calm (n + mostAccesses u.fetchInstr.1) :=
      fetch _ (running.mono (by rw [decoded]; omega))
    have within : t.trace.length ≤ u.fetchInstr.2.trace.length + mostAccesses u.fetchInstr.1 := exec_within next
    exact (exec_accesses next).calm fetched (by omega)

/-! ### The loop to its end -/

/-- An iteration that goes on ends the loop, or leaves it the rest of its budget. -/
theorem runLoop_of_iterate (h : iterate s = .next (t, turn)) :
    (∃ count, runLoop (k + 1) s c = .next (t, count)) ∨ runLoop (k + 1) s c = runLoop k t (c + 1) := by
  cases turn with
  | accepted => exact .inr (by simp only [runLoop, h])
  | idle => exact .inl ⟨c, by simp only [runLoop, h]⟩
  | executed =>
    cases halted : t.halted with
    | true => exact .inl ⟨c + 1, runLoop_of_executed_halted h halted⟩
    | false => exact .inr (by simp only [runLoop, h, halted, Bool.false_eq_true, if_false])

theorem runLoop_of_fault {f : Fault} (h : iterate s = .fault f) : runLoop (k + 1) s c = .fault f := by
  simp only [runLoop, h]

/-- A loop of a live core under Silicon returns, or ends in a forbidden call among the answers of its budget. -/
theorem runLoop_ends (live : s.live) (silicon : s.params.undocOps = .silicon) :
    (∃ t count, runLoop k s c = .next (t, count)) ∨
    (¬ s.Calm (7 * k) ∧ ∃ call, runLoop k s c = .fault (.preconditionViolation call)) := by
  induction k generalizing s c with
  | zero => exact .inl ⟨s, c, rfl⟩
  | succ k ih =>
    obtain ⟨t, turn, turned⟩ | ⟨violated, call, fault⟩ := iterate_cases live silicon
    · obtain ⟨count, returned⟩ | rest := runLoop_of_iterate (k := k) (c := c) turned
      · exact .inl ⟨t, count, returned⟩
      · rw [rest]
        obtain returned | ⟨noisy, faulted⟩ := ih (c := c + 1) (iterate_live live turned)
          (iterate_params turned ▸ silicon)
        · exact .inl returned
        · exact .inr ⟨fun calm => noisy (iterate_calm calm turned), faulted⟩
    · refine .inr ⟨fun calm => ?_, call, runLoop_of_fault fault⟩
      obtain ⟨-, quiet⟩ : s.Calm 7 := calm.mono (by omega)
      exact not_stepViolated_of_quiet live quiet violated

end

/-- Settles O58: `runLoop_ends` is the induction over the budget, and every iteration keeps the invariant. -/
theorem everyRunReturns : Obligations.EveryRunReturns := by
  intro n s live silicon inv
  obtain ⟨initialised, -, noViolation⟩ := id live
  have ended := runLoop_ends (k := n.toNat) (c := 0) live silicon
  rw [← run_of_initialised initialised] at ended
  refine ⟨fun t count returned => ?kept, ?ends, fun quiet => ?returns⟩
  case kept =>
    exact runLoop_keeps (P := fun u => u.Inv ∧ u.live ∧ u.params = s.params)
      (fun ⟨inv, live, params⟩ turned =>
        ⟨iterate_inv inv turned, iterate_live live turned, (iterate_params turned).trans params⟩)
      ⟨inv, live, rfl⟩ (run_next returned).2
  case ends => exact ended.imp_right And.right
  case returns => exact ended.resolve_right fun ⟨noisy, _⟩ => noisy ⟨noViolation, quiet⟩

/-! ### The saved context -/

/-- R233, R234: what the blob does not hold is the administrative state, memory and the environment. -/
theorem State.restore_of_same {s u : State} {context : Context} (saved : s.saveContext = .saved context)
    (initialised : u.initialised = s.initialised) (bus : u.bus = s.bus) (provider : u.provider = s.provider)
    (violation : u.violation = s.violation) (mem : u.mem = s.mem) (params : u.params = s.params)
    (answers : u.answers = s.answers) (trace : u.trace = s.trace) (draws : u.draws = s.draws) :
    u.restore context = s := by
  cases saved
  simp only [State.restore, initialised, bus, provider, violation, mem, params, answers, trace, draws]

/-- Settles O59: with all the rest the same, the core that loads the context is in the saved state. -/
theorem loadedContextIsTheSavedOne : Obligations.LoadedContextIsTheSavedOne := by
  intro s u
  refine ⟨⟨_, rfl, rfl, fun cell => ?_, rfl, rfl, rfl, rfl, rfl, rfl, rfl,
    fun initialised bus provider violation mem params answers trace draws => ?_⟩, rfl⟩
  · cases cell <;> rfl
  · exact congrArg step
      (State.restore_of_same rfl initialised bus provider violation mem params answers trace draws)

/-! ### A forbidden call that stands -/

section
variable {s : State} {call : Config.HostCallName} {n : BitVec 32}

theorem State.memRead_violation_some (a : Word) (h : s.violation = some call) :
    (s.memRead a).2.violation = some call := by
  unfold State.memRead
  split
  · exact State.answered_violation_some _ _ h
  · exact h

theorem State.memWrite_violation_some (a : Word) (v : Byte) (h : s.violation = some call) :
    (s.memWrite a v).violation = some call := by
  unfold State.memWrite
  split
  · exact State.answered_violation_some _ _ h
  · exact h

theorem State.takeInterrupt_violation_some (target : Word) (iff2 : Bool) (h : s.violation = some call) :
    (s.takeInterrupt target iff2).violation = some call := by
  have prologue : s.acceptPrologue.violation = some call := by simpa using h
  exact State.memWrite_violation_some (s := State.setSp _ _) _ _
    (State.memWrite_violation_some (s := State.setSp _ _) _ _ prologue)

theorem State.fetchBytes_violation_some (k : Nat) (h : s.violation = some call) :
    (State.fetchBytes k s).2.violation = some call := by
  induction k generalizing s with
  | zero => exact h
  | succ k ih => exact ih (State.memRead_violation_some s.pc h)

/-- The fetch goes on to its last byte (log 13). -/
theorem State.fetchInstr_violation_some (h : s.fetch8.2.violation = some call) :
    s.fetchInstr.2.violation = some call := by
  have second : s.fetch8.2.fetch8.2.violation = some call := State.memRead_violation_some _ h
  unfold State.fetchInstr
  simp only []
  split
  · split <;> simpa using State.fetchBytes_violation_some _ second
  · simpa using State.fetchBytes_violation_some _ h

/-- The device that answers the first fetch makes the call (R235). -/
theorem State.fetchInstr_calls (noViolation : s.violation = none) (device : s.isDevice s.pc = true)
    (calls : (s.answerTo (.memRead s.pc)).call = some call) : s.fetchInstr.2.violation = some call := by
  refine State.fetchInstr_violation_some ?_
  simp [State.fetch8, State.memRead, device, noViolation, calls]

/-- The provider asked at the poll makes the call, whatever it selects. -/
theorem State.poll_calls (noViolation : s.violation = none) (latch : s.nmiLatch = false) (line : s.intLine = true)
    (enabled : s.iff1 = true) (asksFirst : s.im ≠ .im1) (provider : s.provider = true)
    (calls : (s.answerTo .provider).call = some call) : s.poll.1.violation = some call := by
  have asked : s.callProvider.2.violation = some call := by
    obtain ⟨-, -, violation⟩ := s.callProvider_linesAfter
    rw [violation, noViolation, Option.none_or, calls]
  cases mode : s.im with
  | im0 =>
    rw [State.poll_mode0 latch line enabled mode, State.acceptMode0]
    simp only [provider, if_true]
    split
    · split
      · exact State.takeInterrupt_violation_some _ _ asked
      · exact asked
    · exact asked
  | im1 => exact absurd mode asksFirst
  | im2 =>
    rw [State.poll_mode2 latch line enabled mode, State.acceptMode2]
    simp only [provider, if_true]
    split
    · exact State.takeInterrupt_violation_some _ _
        (State.memRead_violation_some _ (State.memRead_violation_some _ asked))
    · exact asked

/-! ### A step that faults -/

theorem iterate_of_poll_violation (live : s.live) (polled : s.nextDraw.poll.1.violation = some call) :
    iterate s = .fault (.preconditionViolation call) := by
  obtain ⟨initialised, written, -⟩ := live
  simp only [iterate, initialised, written, if_true, State.unlessViolated_some _ polled]

theorem iterate_of_fetch_violation (runs : s.runsNext) (fetched : s.nextDraw.fetchInstr.2.violation = some call) :
    iterate s = .fault (.preconditionViolation call) := by
  have declines := runs.poll
  obtain ⟨⟨initialised, written, noViolation⟩, -, -, running⟩ := runs
  simp [iterate, initialised, written, declines, noViolation, running, State.unlessViolated_some _ fetched]

/-- A `Run` of at least one ends in the fault of its first step. -/
theorem step_and_run_of_fault {f : Fault} (initialised : s.initialised = true) (faults : iterate s = .fault f) :
    step s = .fault f ∧ (n ≠ 0 → run n s = .fault f) := by
  refine ⟨by simp only [step, faults], fun nonzero => ?_⟩
  obtain ⟨k, budget⟩ := exists_toNat_eq_succ nonzero
  rw [run_of_initialised initialised, budget, runLoop_of_fault faults]

/-- R246: the poll finds the control cells unwritten. -/
theorem iterate_of_unwritten (initialised : s.initialised = true) (unwritten : s.controlWritten = false) :
    iterate s = .fault (.unwrittenRead s.firstUnwritten) := by
  simp only [iterate, initialised, unwritten, if_true, Bool.false_eq_true, if_false]

/-! ### The host calls -/

theorem hostCall_init (bus : Bus) (provider : Bool) :
    (s.initialised = true → hostCall false (.init bus provider) s = .fault (.preconditionViolation .init)) ∧
    (s.initialised = false → hostCall false (.init bus provider) s =
      .next ({ s with bus := some bus, provider := provider, initialised := true }, .nothing)) := by
  constructor <;> intro initialised <;> simp [hostCall, outsideRun, withoutReply, State.initCall, initialised]

end

/-- Settles O60: a forbidden call made at the first fetch or at the poll stands to the end of the step, and the other
clauses are the host calls themselves. -/
theorem hostCallsKeepTheirPreconditions : Obligations.HostCallsKeepTheirPreconditions := by
  intro s bus provider inRun active n blob
  obtain ⟨twice, once⟩ := hostCall_init (s := s) bus provider
  refine ⟨twice, fun fresh => ⟨_, once fresh, rfl, rfl, rfl, fun cell _ => ?cells, rfl, rfl, rfl, rfl⟩, ?inside, rfl,
    rfl, fun call runs device calls => ?device, fun call live latch line enabled asksFirst installed calls => ?provider,
    fun initialised unwritten => ?unwritten⟩
  case cells => cases cell <;> rfl
  case inside => simp [hostCall, outsideRun]
  case device =>
    obtain ⟨⟨initialised, -, noViolation⟩, -⟩ := id runs
    have fetched : s.nextDraw.fetchInstr.2.violation = some call :=
      State.fetchInstr_calls (s := s.nextDraw) noViolation device calls
    exact step_and_run_of_fault initialised (iterate_of_fetch_violation runs fetched)
  case provider =>
    obtain ⟨initialised, -, noViolation⟩ := id live
    have polled : s.nextDraw.poll.1.violation = some call :=
      State.poll_calls (s := s.nextDraw) noViolation latch line enabled asksFirst installed calls
    exact step_and_run_of_fault initialised (iterate_of_poll_violation live polled)
  case unwritten =>
    obtain ⟨stepped, ran⟩ := step_and_run_of_fault (n := n) initialised (iterate_of_unwritten initialised unwritten)
    exact ⟨stepped, ran, _, rfl, rfl⟩

end Sys2Proof.Machine
end

section
/-!
PROOFS. The reset call (70_reset_and_hazards.md rule R244).
-/

namespace Sys2Proof.Machine

/-- R235, R244: the precondition is about the `Run` in progress alone, so it asks for no `Init`. -/
theorem hostCall_reset (inRun : Bool) (s : State) :
    hostCall inRun .reset s =
      if inRun then .fault (.preconditionViolation .reset) else .next (s.resetCall, .nothing) := rfl

/-- Settles O18: outside a `Run` the call leaves `State.resetCall`, one update of the control cells and the lines. -/
theorem resetCallWritesTheListedCells : Obligations.ResetCallWritesTheListedCells := by
  intro s
  refine ⟨?inside, s.resetCall, ?outside, ?cells⟩
  case inside => simp only [hostCall_reset, if_true]
  case outside => simp only [hostCall_reset, Bool.false_eq_true, if_false]
  case cells => and_intros <;> rfl

end Sys2Proof.Machine
end

section
/-!
PROOFS. The step over the whole state: the instruction it runs (30_encoding.md rule R53, 60_exceptions.md rule R229),
the invariant it keeps (10_state.md rules R32, R33), the halted core (R222, R229), and the jumps (43_control.md rules
R168 to R174). The first three are read off what is known of `iterate`.
-/

namespace Sys2Proof.Machine

open Sys2Proof

/-! ### The step as an iteration -/

theorem iterate_of_step {s t : State} (h : step s = .next t) : ∃ turn, iterate s = .next (t, turn) := by
  unfold step at h
  split at h
  · next u turn turned => cases h; exact ⟨turn, turned⟩
  · cases h
  · cases h

/-- Settles O7: a step is an iteration, and every iteration keeps the invariant. -/
theorem everyStepKeepsTheInvariant : Obligations.EveryStepKeepsTheInvariant := by
  intro s t inv stepped
  obtain ⟨turn, turned⟩ := iterate_of_step stepped
  exact iterate_inv inv turned

/-- Settles O8: the empty memory is canonical, and the other clauses are read off the fields. -/
theorem resetMeetsTheInvariant : Obligations.ResetMeetsTheInvariant :=
  ⟨rfl, rfl, fun _ => rfl, rfl⟩

/-- Settles O17, by evaluating the fields. -/
theorem resetLeavesTheSpecifiedValues : Obligations.ResetLeavesTheSpecifiedValues :=
  ⟨rfl, rfl, rfl, rfl, rfl, rfl, rfl, rfl, rfl⟩

/-- Settles O6: the poll leaves the state alone, and the fetch from plain memory is `State.fetchInstr_plain`. -/
theorem stepRunsTheDecodedInstruction : Obligations.StepRunsTheDecodedInstruction := by
  intro s i rest runs plain decoded
  have declines := runs.poll
  obtain ⟨live, -, -, running⟩ := runs
  obtain ⟨-, -, noViolation⟩ := id live
  have bytes : s.nextDraw.bytesAt s.nextDraw.pc 4 = s.bytesAt s.pc 4 := State.bytesAt_congr rfl s.pc 4
  exact step_plain live declines running noViolation plain (bytes ▸ decoded)

/-! ### The halted core -/

/-- With no request to accept, the poll leaves the state alone (R214). -/
theorem State.poll_of_noRequest {s : State} (latch : s.nmiLatch = false)
    (line : (s.intLine && s.iff1) = false) : s.poll = (s, false) := by
  simp only [State.poll, latch, line, Bool.false_eq_true, if_false]

/-- Settles O54: the turn is idle, and a `Run` ends at it. -/
theorem haltedCoreWaits : Obligations.HaltedCoreWaits := by
  intro s n live halted latch line
  have declines : s.nextDraw.poll = (s.nextDraw, false) := State.poll_of_noRequest latch line
  obtain ⟨initialised, -, noViolation⟩ := id live
  have turned : iterate s = .next (s.nextDraw, .idle) := iterate_idle live declines halted noViolation
  refine ⟨step_of_iterate turned, ?_⟩
  by_cases zero : n = 0
  · subst zero
    exact ⟨s, run_of_initialised initialised 0, fun _ _ => rfl, rfl, rfl⟩
  · exact ⟨s.nextDraw, run_of_idle live turned zero, fun cell _ => by cases cell <;> rfl, rfl, rfl⟩

/-! ### Jumps -/

/-- A relative target is counted modulo 2^16 (30_encoding.md rule R58). -/
theorem relativeTarget_toNat (pc : Word) (e : Byte) :
    ((pc + signExtend16 e).toNat : Int) = (pc.toNat + e.toInt) % 65536 := by
  have offset : ((signExtend16 e).toNat : Int) = e.toInt % 65536 := by
    simp [signExtend16, BitVec.signExtend, Int.emod_nonneg]
  rw [BitVec.toNat_add]
  push_cast
  omega

theorem byte_pred_toNat (v : Byte) : (v - 1).toNat = (v.toNat + 255) % 256 := by
  bv_omega

/-- Settles O46: the conditions are the flags by definition, and each jump sets PC or leaves it. -/
theorem jumpsGoToTheirTarget : Obligations.JumpsGoToTheirTarget := by
  intro s
  refine ⟨rfl, rfl, rfl, rfl, rfl, rfl, rfl, rfl, fun nn => ⟨_, rfl, rfl⟩, fun cc nn => ⟨_, rfl, ?absolute⟩,
    fun e => ⟨_, rfl, relativeTarget_toNat s.pc e⟩, fun cc e => ⟨_, rfl, ?relative⟩,
    fun e => ⟨_, rfl, ?counted, ?flags, ?target⟩, ⟨_, rfl, rfl, rfl⟩, fun i => ⟨_, rfl, rfl, rfl⟩⟩
  case absolute => split <;> rfl
  case relative =>
    split
    · exact relativeTarget_toNat s.pc e
    · rfl
  case counted => split <;> exact byte_pred_toNat s.regs.b
  case flags => split <;> rfl
  case target =>
    by_cases last : s.regs.b = 1
    · have spent : (s.setReg .b (s.regs.b - 1)).regs.b = 0 := sub_eq_zero.2 last
      rw [if_pos last, if_pos spent]
      rfl
    · have more : (s.setReg .b (s.regs.b - 1)).regs.b ≠ 0 := sub_ne_zero.2 last
      rw [if_neg last, if_neg more]
      exact relativeTarget_toNat s.pc e

end Sys2Proof.Machine
end

section
/-!
PROOFS. The frame over the register context (10_state.md rules R16 to R29). Each operation of the model is shown once to
keep the cells it does not name; the frame of an instruction is its meaning read as a sequence of those operations, each
of which names cells that `Instr.writes` lists.
-/

namespace Sys2Proof.Machine

open Sys2Proof

/-! ### The operations -/

section
variable {w : List Cell} {s t u : State}

theorem KeptOutside.refl : KeptOutside w s s := fun _ _ => rfl

theorem KeptOutside.trans (first : KeptOutside w s t) (second : KeptOutside w t u) : KeptOutside w s u :=
  fun cell kept => (second cell kept).trans (first cell kept)

theorem KeptOutside.ite {c : Prop} [Decidable c] (ht : KeptOutside w s t) (hu : KeptOutside w s u) :
    KeptOutside w s (if c then t else u) := by
  split <;> assumption

/-! The accesses write no cell. -/

theorem KeptOutside.memRead (h : KeptOutside w s t) (a : Word) : KeptOutside w s (t.memRead a).2 :=
  h.trans fun cell _ => by cases cell <;> simp [State.cell]

theorem KeptOutside.memWrite (h : KeptOutside w s t) (a : Word) (v : Byte) : KeptOutside w s (t.memWrite a v) :=
  h.trans fun cell _ => by cases cell <;> simp [State.cell]

theorem KeptOutside.ioRead (h : KeptOutside w s t) (port : Word) : KeptOutside w s (t.ioRead port).2 := h

theorem KeptOutside.ioWrite (h : KeptOutside w s t) (port : Word) (v : Byte) : KeptOutside w s (t.ioWrite port v) := h

theorem KeptOutside.memRead16 (h : KeptOutside w s t) (a : Word) : KeptOutside w s (t.memRead16 a).2 :=
  (h.memRead a).memRead (a + 1)

theorem KeptOutside.memWrite16 (h : KeptOutside w s t) (a v : Word) : KeptOutside w s (t.memWrite16 a v) :=
  (h.memWrite a _).memWrite (a + 1) _

theorem KeptOutside.readOpnd (h : KeptOutside w s t) (o : Opnd8) : KeptOutside w s (t.readOpnd o).2 := by
  cases o with
  | reg => exact h
  | hlMem => exact h.memRead t.hl

theorem KeptOutside.exchangeTop (h : KeptOutside w s t) (v : Word) : KeptOutside w s (t.exchangeTop v).2 :=
  ((h.memRead16 t.sp).memWrite _ _).memWrite _ _

/-! The 8- and 16-bit registers. -/

theorem KeptOutside.setReg (h : KeptOutside w s t) (r : Reg8) (v : Byte) (mem : .reg r ∈ w) :
    KeptOutside w s (t.setReg r v) :=
  h.trans fun cell kept => by
    cases cell with
    | reg q =>
      have other : q ≠ r := fun same => kept (same ▸ mem)
      exact congrArg BitVec.toNat (Bank.get_set_other t.regs v other)
    | flag => simp [State.cell]
    | _ => rfl

theorem KeptOutside.setPc (h : KeptOutside w s t) (v : Word) (mem : .pc ∈ w) : KeptOutside w s (t.setPc v) :=
  h.trans fun cell kept => by
    cases cell with
    | pc => exact absurd mem kept
    | _ => rfl

theorem KeptOutside.setSp (h : KeptOutside w s t) (v : Word) (mem : .sp ∈ w) : KeptOutside w s (t.setSp v) :=
  h.trans fun cell kept => by
    cases cell with
    | sp => exact absurd mem kept
    | _ => rfl

theorem KeptOutside.setPair (h : KeptOutside w s t) (p : Rp) (v : Word) (mem : p.cells ⊆ w) :
    KeptOutside w s (t.setPair p v) := by
  cases p with
  | bc => exact (h.setReg .b (hiByte v) (mem (.head _))).setReg .c (loByte v) (mem (.tail _ (.head _)))
  | de => exact (h.setReg .d (hiByte v) (mem (.head _))).setReg .e (loByte v) (mem (.tail _ (.head _)))
  | hl => exact (h.setReg .h (hiByte v) (mem (.head _))).setReg .l (loByte v) (mem (.tail _ (.head _)))
  | sp => exact h.setSp v (mem (.head _))

theorem KeptOutside.setF (h : KeptOutside w s t) (f : Flags) (mem : allFlags ⊆ w) : KeptOutside w s (t.setF f) :=
  h.trans fun cell kept => by
    cases cell with
    | flag name => exact absurd (mem (by cases name <;> decide)) kept
    | _ => rfl

theorem KeptOutside.setPair2 (h : KeptOutside w s t) (p : Rp2) (v : Word) (mem : p.cells ⊆ w) :
    KeptOutside w s (t.setPair2 p v) := by
  cases p with
  | bc => exact h.setPair .bc v mem
  | de => exact h.setPair .de v mem
  | hl => exact h.setPair .hl v mem
  | af =>
    exact (h.setReg .a (hiByte v) (mem (.head _))).setF _ (List.Subset.trans (List.subset_cons_self _ _) mem)

theorem KeptOutside.setIdx (h : KeptOutside w s t) (i : Idx) (v : Word) (mem : i.cell ∈ w) :
    KeptOutside w s (t.setIdx i v) :=
  h.trans fun cell kept => by
    cases i <;> cases cell
    case ix.ix | iy.iy => exact absurd mem kept
    all_goals rfl

theorem KeptOutside.setHalf (h : KeptOutside w s t) (i : Idx) (half : Half) (v : Byte) (mem : i.cell ∈ w) :
    KeptOutside w s (t.setHalf i half v) := by
  cases half <;> exact h.setIdx i _ mem

theorem KeptOutside.setRegX (h : KeptOutside w s t) (i : Idx) (x : RegX) (v : Byte) (mem : x.cell i ∈ w) :
    KeptOutside w s (t.setRegX i x v) := by
  cases x
  case idxH | idxL => exact h.setHalf i _ v mem
  all_goals exact h.setReg _ v mem

theorem KeptOutside.writeOpnd (h : KeptOutside w s t) (o : Opnd8) (v : Byte) (mem : o.cells ⊆ w) :
    KeptOutside w s (t.writeOpnd o v) := by
  cases o with
  | reg r => exact h.setReg r v (mem (.head _))
  | hlMem => exact h.memWrite t.hl v

theorem KeptOutside.repeatIf (h : KeptOutside w s t) (again : Bool) (mem : again = true → .pc ∈ w) :
    KeptOutside w s (t.repeatIf again) := by
  cases again with
  | true => exact h.setPc _ (mem rfl)
  | false => exact h

theorem KeptOutside.setIm (h : KeptOutside w s t) (mode : IntMode) (mem : .im ∈ w) :
    KeptOutside w s { t with im := mode } :=
  h.trans fun cell kept => by
    cases cell with
    | im => exact absurd mem kept
    | _ => rfl

/-! The stack. -/

theorem KeptOutside.push16 (h : KeptOutside w s t) (v : Word) (mem : .sp ∈ w) : KeptOutside w s (t.push16 v) :=
  (((h.setSp _ mem).memWrite _ _).setSp _ mem).memWrite _ _

theorem KeptOutside.pop16 (h : KeptOutside w s t) (mem : .sp ∈ w) : KeptOutside w s t.pop16.2 :=
  (((h.memRead _).setSp _ mem).memRead _).setSp _ mem

theorem KeptOutside.call (h : KeptOutside w s t) (target : Word) (sp : .sp ∈ w) (pc : .pc ∈ w) :
    KeptOutside w s (t.call target) :=
  (h.push16 t.pc sp).setPc target pc

theorem KeptOutside.popPc (h : KeptOutside w s t) (sp : .sp ∈ w) (pc : .pc ∈ w) : KeptOutside w s t.popPc :=
  (h.pop16 sp).setPc _ pc

theorem KeptOutside.returnFromInterrupt (h : KeptOutside w s t) (sp : .sp ∈ w) (pc : .pc ∈ w) (iff1 : .iff1 ∈ w) :
    KeptOutside w s t.returnFromInterrupt :=
  (h.popPc sp pc).trans fun cell kept => by
    cases cell with
    | iff1 => exact absurd iff1 kept
    | _ => rfl

/-! F. What a write of F keeps of it is a matter of the flag function and the masks of its draws. -/

theorem Flags.bit_mix (mask free f : Flags) (name : FlagName) :
    (Flags.mix mask free f).bit name = bif mask.bit name then free.bit name else f.bit name := by
  cases name <;> rfl

theorem State.drawMask_bit (s : State) (always undefined : Flags) (name : FlagName) (ha : always.bit name = false)
    (hu : undefined.bit name = false) : (s.drawMask always undefined).bit name = false := by
  have union : (always.union undefined).bit name = (always.bit name || undefined.bit name) := by cases name <;> rfl
  unfold State.drawMask
  split
  · exact ha
  · rw [union, ha, hu]
    rfl

/-- The flags outside the list are not drawn, and the flag function gives what they were. -/
def KeepsFlags (w : List Cell) (s : State) (always undefined f : Flags) : Prop :=
  ∀ name, .flag name ∉ w → always.bit name = false ∧ undefined.bit name = false ∧ f.bit name = s.regs.f.bit name

theorem KeptOutside.putFlags (h : KeptOutside w s t) {always undefined f : Flags}
    (keeps : KeepsFlags w s always undefined f) : KeptOutside w s (t.putFlags always undefined f) := by
  intro cell kept
  cases cell with
  | flag name =>
    obtain ⟨ha, hu, same⟩ := keeps name kept
    simp [State.cell, Flags.bit_mix, State.drawMask_bit t always undefined name ha hu, same]
  | _ => exact h _ kept

theorem KeepsFlags.of_all (all : allFlags ⊆ w) {always undefined f : Flags} : KeepsFlags w s always undefined f :=
  fun name kept => absurd (all (by cases name <;> decide)) kept

theorem KeepsFlags.of_butC (butC : flagsButC ⊆ w) {always undefined f : Flags} (ha : always.c = false)
    (hu : undefined.c = false) (same : f.c = s.regs.f.c) : KeepsFlags w s always undefined f := by
  intro name kept
  cases name with
  | c => exact ⟨ha, hu, same⟩
  | _ => exact absurd (butC (by decide)) kept

/-- S, Z and PV are no draws of the operations that keep them. -/
theorem KeepsFlags.of_butSzp (butSzp : flagsButSzp ⊆ w) {always undefined f : Flags}
    (ha : always = Flags.none ∨ always = Flags.maskXY) (hu : undefined = Flags.none ∨ undefined = Flags.maskXY)
    (same : f.s = s.regs.f.s ∧ f.z = s.regs.f.z ∧ f.pv = s.regs.f.pv) : KeepsFlags w s always undefined f := by
  have undrawn {mask : Flags} (h : mask = Flags.none ∨ mask = Flags.maskXY) :
      mask.s = false ∧ mask.z = false ∧ mask.pv = false := by
    rcases h with rfl | rfl <;> exact ⟨rfl, rfl, rfl⟩
  obtain ⟨has, haz, hap⟩ := undrawn ha
  obtain ⟨hus, huz, hup⟩ := undrawn hu
  obtain ⟨sameS, sameZ, samePv⟩ := same
  intro name kept
  cases name with
  | s => exact ⟨has, hus, sameS⟩
  | z => exact ⟨haz, huz, sameZ⟩
  | pv => exact ⟨hap, hup, samePv⟩
  | _ => exact absurd (butSzp (by decide)) kept

end

/-! ### The meanings the instructions share -/

section
variable {w : List Cell} {s t : State}

/-- F written, then A: what an operation on the accumulator ends with. -/
theorem KeptOutside.putFlags_setA (h : KeptOutside w s t) {always undefined f : Flags} (v : Byte)
    (keeps : KeepsFlags w s always undefined f) (mem : .reg .a ∈ w) :
    KeptOutside w s ((t.putFlags always undefined f).setReg .a v) :=
  (h.putFlags keeps).setReg .a v mem

theorem KeptOutside.putFlags_setHl (h : KeptOutside w s t) {always undefined f : Flags} (v : Word)
    (keeps : KeepsFlags w s always undefined f) (mem : Rp.hl.cells ⊆ w) :
    KeptOutside w s ((t.putFlags always undefined f).setHl v) :=
  (h.putFlags keeps).setPair .hl v mem

/-- `INC` and `DEC` keep C (R116, R117), whatever they act on. -/
theorem KeptOutside.modifyMem (change : Flags → Byte → Byte × Flags) (a : Word)
    (keepsC : ∀ f v, (change f v).2.c = f.c) (butC : flagsButC ⊆ w) : KeptOutside w s (s.modifyMem change a) :=
  ((KeptOutside.refl.memRead a).memWrite a _).putFlags (.of_butC butC rfl rfl (by simp [keepsC]))

theorem KeptOutside.modifyOpnd (change : Flags → Byte → Byte × Flags) (o : Opnd8)
    (keepsC : ∀ f v, (change f v).2.c = f.c) (mem : o.cells ⊆ w) (butC : flagsButC ⊆ w) :
    KeptOutside w s (s.modifyOpnd change o) := by
  cases o with
  | reg r =>
    exact (KeptOutside.refl.setReg r _ (mem (.head _))).putFlags (.of_butC butC rfl rfl (keepsC _ _))
  | hlMem => exact KeptOutside.modifyMem change s.hl keepsC butC

theorem KeptOutside.modifyHalf (change : Flags → Byte → Byte × Flags) (i : Idx) (half : Half)
    (keepsC : ∀ f v, (change f v).2.c = f.c) (mem : i.cell ∈ w) (butC : flagsButC ⊆ w) :
    KeptOutside w s (s.modifyHalf change i half) :=
  (KeptOutside.refl.setHalf i half _ mem).putFlags (.of_butC butC rfl rfl (keepsC _ _))

theorem KeptOutside.rotateOpnd (kind : Rotation) (o : Opnd8) (mem : o.cells ⊆ w) (all : allFlags ⊆ w) :
    KeptOutside w s (s.rotateOpnd kind o) :=
  ((KeptOutside.refl.readOpnd o).writeOpnd o _ mem).putFlags (.of_all all)

theorem KeptOutside.rotateMem (kind : Rotation) (a : Word) (all : allFlags ⊆ w) :
    KeptOutside w s (s.rotateMem kind a).2 :=
  ((KeptOutside.refl.memRead a).memWrite a _).putFlags (.of_all all)

theorem KeptOutside.changeMem (change : Byte → Byte) (a : Word) : KeptOutside w s (s.changeMem change a).2 :=
  (KeptOutside.refl.memRead a).memWrite a _

theorem KeptOutside.testBit (h : KeptOutside w s t) (b : Fin 8) (v xy : Byte) {always : Flags}
    (draws : always.c = false) (same : t.regs.f = s.regs.f) (butC : flagsButC ⊆ w) :
    KeptOutside w s (t.testBit b v xy always) :=
  h.putFlags (.of_butC butC draws rfl (congrArg Flags.c same :))

theorem KeptOutside.rotateDigit (mem acc : Byte → Byte → Byte) (a : .reg .a ∈ w) (butC : flagsButC ⊆ w) :
    KeptOutside w s (s.rotateDigit mem acc) :=
  ((KeptOutside.refl.memRead s.hl).memWrite s.hl _).putFlags_setA _ (.of_butC butC rfl rfl rfl) a

theorem KeptOutside.inC (butC : flagsButC ⊆ w) : KeptOutside w s s.inC.2 :=
  (KeptOutside.refl.ioRead s.bc).putFlags (.of_butC butC rfl rfl rfl)

/-! The block instructions write PC only where they repeat (R110, R148, R193). -/

theorem repeatDraws_bit (again : Bool) {mask : Flags} {name : FlagName} (undrawn : mask.bit name = false) :
    (bif again then mask else Flags.none).bit name = false := by
  cases again with
  | true => exact undrawn
  | false => cases name <;> rfl

theorem KeptOutside.ldStep (delta : Word) (repeats : Bool) (listed : Instr.ldi.writes ⊆ w)
    (pc : repeats = true → .pc ∈ w) : KeptOutside w s (s.ldStep delta repeats) := by
  have pair (p : Rp) (cells : p.cells ⊆ Instr.ldi.writes) : p.cells ⊆ w :=
    List.Subset.trans cells listed
  refine .repeatIf (.putFlags (.setPair (.setPair (.setPair (.memWrite (.memRead .refl _) _ _) .hl _ (pair .hl ?_))
    .de _ (pair .de ?_)) .bc _ (pair .bc ?_)) ?flags) _ fun again => pc (Bool.and_eq_true_iff.1 again).1
  case flags =>
    intro name kept
    cases name with
    | s | z | c => exact ⟨repeatDraws_bit _ rfl, rfl, by simp [Flags.bit, ldBlockFlags]⟩
    | _ => exact absurd (listed (by decide)) kept
  all_goals decide

theorem KeptOutside.cpStep (delta : Word) (repeats : Bool) (listed : Instr.cpi.writes ⊆ w)
    (pc : repeats = true → .pc ∈ w) : KeptOutside w s (s.cpStep delta repeats) := by
  have pair (p : Rp) (cells : p.cells ⊆ Instr.cpi.writes) : p.cells ⊆ w :=
    List.Subset.trans cells listed
  refine .repeatIf (.putFlags (.setPair (.setPair (.memRead .refl _) .hl _ (pair .hl ?_)) .bc _ (pair .bc ?_))
    (.of_butC (List.Subset.trans ?_ listed) (repeatDraws_bit (name := .c) _ rfl) rfl ?flags)) _ fun again => pc ?again
  case flags => simp [cpBlockFlags]
  case again =>
    simp only [Bool.and_eq_true] at again
    exact again.1.1
  all_goals decide

theorem KeptOutside.ioBlockEnd (h : KeptOutside w s t) (v : Byte) (k : Nat) (repeats : Bool) (all : allFlags ⊆ w)
    (pc : repeats = true → .pc ∈ w) : KeptOutside w s (t.ioBlockEnd v k repeats) :=
  .repeatIf (h.putFlags (.of_all all)) _ fun again => pc (Bool.and_eq_true_iff.1 again).1

theorem KeptOutside.inStep (delta : Word) (deltaC : Byte) (repeats : Bool) (listed : Instr.ini.writes ⊆ w)
    (pc : repeats = true → .pc ∈ w) : KeptOutside w s (s.inStep delta deltaC repeats) := by
  refine .ioBlockEnd (.setPair (.setReg (.memWrite (.ioRead .refl _) _ _) .b _ (listed ?_)) .hl _
    (List.Subset.trans ?_ listed)) _ _ _ (List.Subset.trans ?_ listed) pc
  all_goals decide

theorem KeptOutside.outStep (delta : Word) (repeats : Bool) (listed : Instr.outi.writes ⊆ w)
    (pc : repeats = true → .pc ∈ w) : KeptOutside w s (s.outStep delta repeats) := by
  refine .ioBlockEnd (.setPair (.ioWrite (.setReg (.memRead .refl _) .b _ (listed ?_)) _ _) .hl _
    (List.Subset.trans ?_ listed)) _ _ _ (List.Subset.trans ?_ listed) pc
  all_goals decide

end

/-! ### Every instruction -/

theorem State.undocumented_next {i : Instr} {s t u : State} (next : s.undocumented i u = .next t) :
    s.params.undocOps = .silicon ∧ u = t := by
  unfold State.undocumented at next
  split at next
  · next silicon => cases next; exact ⟨silicon, rfl⟩
  · cases next

/-- Where the outcome is a next state, the cells outside the list are kept. -/
def Frames (w : List Cell) (s : State) (o : Host.Outcome State Fault Refusal) : Prop :=
  ∀ t, o = .next t → KeptOutside w s t

section
variable {w : List Cell} {s t : State}

theorem Frames.next (h : KeptOutside w s t) : Frames w s (.next t) := by
  rintro _ ⟨⟩
  exact h

theorem Frames.undocumented {i : Instr} (h : KeptOutside w s t) : Frames w s (s.undocumented i t) := by
  intro t' next
  obtain ⟨-, rfl⟩ := State.undocumented_next next
  exact h

end

theorem exec_frames (i : Instr) (s : State) : Frames i.writes s (exec i s) := by
  have whole {w : List Cell} : w ⊆ w := List.Subset.refl w
  have rest {c : Cell} {w : List Cell} : w ⊆ c :: w := List.subset_cons_self c w
  cases i with
  -- Accesses alone.
  | nop | edUndefined | ignoredPrefix => exact .next .refl
  | ldRpMemA | ldNnMemA | ldHlMemN | ldHlMemR | ldIdxMemN | ldIdxMemR => exact .next (.memWrite .refl _ _)
  | ldNnMemHl | ldNnMemRp | ldNnMemIdx => exact .next (.memWrite16 .refl _ _)
  | ldNnMemHlEd => exact .undocumented (.memWrite16 .refl _ _)
  | outNA | outCR => exact .next (.ioWrite .refl _ _)
  | outC0 => exact .undocumented (.ioWrite .refl _ _)
  | resIdxMem | setIdxMem => exact .next (.changeMem _ _)
  -- Loads of a register.
  | ldRN | ldRR => exact .next (.setReg .refl _ _ (.head _))
  | ldRHlMem | ldRIdxMem | ldARpMem | ldANnMem => exact .next (.setReg (.memRead .refl _) _ _ (.head _))
  | inAN => exact .next (.setReg (.ioRead .refl _) _ _ (.head _))
  | ldRpNn | incRp | decRp => exact .next (.setPair .refl _ _ whole)
  | ldRpNnMem | ldHlNnMem => exact .next (.setPair (.memRead16 .refl _) _ _ whole)
  | ldHlNnMemEd => exact .undocumented (.setPair (.memRead16 .refl _) _ _ whole)
  | exSpHl => exact .next (.setPair (.exchangeTop .refl _) .hl _ whole)
  | ldIdxNn | incIdx | decIdx => exact .next (.setIdx .refl _ _ (.head _))
  | ldIdxNnMem => exact .next (.setIdx (.memRead16 .refl _) _ _ (.head _))
  | exSpIdx => exact .next (.setIdx (.exchangeTop .refl _) _ _ (.head _))
  | ldHalfN => exact .undocumented (.setHalf .refl _ _ _ (.head _))
  | ldXX => exact .undocumented (.setRegX .refl _ _ _ (.head _))
  | exAfAf => exact fun _ => exec_exAfAf_kept
  | exx => exact fun _ => exec_exx_kept
  | exDeHl => exact fun _ => exec_exDeHl_kept
  -- The stack, jumps, calls and returns.
  | ldSpHl | ldSpIdx => exact .next (.setSp .refl _ (.head _))
  | pushRp2 | pushIdx => exact .next (.push16 .refl _ (.head _))
  | popRp2 => exact .next (.setPair2 (.pop16 .refl (.head _)) _ _ rest)
  | popIdx => exact .next (.setIdx (.pop16 .refl (.head _)) _ _ (.tail _ (.head _)))
  | jr | jpHl | jpNn | jpIdx => exact .next (.setPc .refl _ (.head _))
  | jrCc | jpCcNn => exact .next (.ite (.setPc .refl _ (.head _)) .refl)
  | djnz =>
    have counted := KeptOutside.setReg (s := s) .refl .b (s.regs.b - 1) (.head [.pc])
    exact .next (.ite counted (counted.setPc _ (.tail _ (.head _))))
  | callNn | rst => exact .next (.call .refl _ (.head _) (.tail _ (.head _)))
  | callCcNn => exact .next (.ite (.call .refl _ (.head _) (.tail _ (.head _))) .refl)
  | ret => exact .next (.popPc .refl (.head _) (.tail _ (.head _)))
  | retCc => exact .next (.ite (.popPc .refl (.head _) (.tail _ (.head _))) .refl)
  | retn | reti => exact .next (.returnFromInterrupt .refl (.head _) (.tail _ (.head _)) (.tail _ (.tail _ (.head _))))
  | retnDup =>
    exact .undocumented (.returnFromInterrupt .refl (.head _) (.tail _ (.head _)) (.tail _ (.tail _ (.head _))))
  -- 8-bit arithmetic and logic.
  | addAR8 o | adcAR8 o | subR8 o | sbcAR8 o | andR8 o | xorR8 o | orR8 o =>
    exact .next (.putFlags_setA (.readOpnd .refl o) _ (.of_all rest) (.head _))
  | addAN | adcAN | subN | sbcAN | andN | xorN | orN | neg =>
    exact .next (.putFlags_setA .refl _ (.of_all rest) (.head _))
  | addAIdxMem | adcAIdxMem | subIdxMem | sbcAIdxMem | andIdxMem | xorIdxMem | orIdxMem =>
    exact .next (.putFlags_setA (.memRead .refl _) _ (.of_all rest) (.head _))
  | addAHalf | adcAHalf | subHalf | sbcAHalf | andHalf | xorHalf | orHalf | negDup =>
    exact .undocumented (.putFlags_setA .refl _ (.of_all rest) (.head _))
  | cpR8 o => exact .next (.putFlags (.readOpnd .refl o) (.of_all whole))
  | cpN => exact .next (.putFlags .refl (.of_all whole))
  | cpIdxMem => exact .next (.putFlags (.memRead .refl _) (.of_all whole))
  | cpHalf => exact .undocumented (.putFlags .refl (.of_all whole))
  | incR8 o | decR8 o =>
    exact .next (.modifyOpnd _ o (fun _ _ => rfl) (List.subset_append_left _ _) (List.subset_append_right _ _))
  | incIdxMem | decIdxMem => exact .next (.modifyMem _ _ (fun _ _ => rfl) whole)
  | incHalf | decHalf => exact .undocumented (.modifyHalf _ _ _ (fun _ _ => rfl) (.head _) rest)
  -- The accumulator, F, and 16-bit arithmetic.
  | rlca | rrca | rla | rra =>
    exact .next (.putFlags_setA .refl _ (.of_butSzp rest (.inl rfl) (.inr rfl) ⟨rfl, rfl, rfl⟩) (.head _))
  | daa =>
    refine .next (.putFlags_setA .refl _ (fun name kept => ?_) (.head _))
    cases name with
    | n => exact ⟨rfl, rfl, rfl⟩
    | _ => simp [Instr.writes] at kept
  | cpl =>
    refine .next (.putFlags_setA .refl _ (fun name kept => ?_) (.head _))
    cases name with
    | s | z | pv | c => exact ⟨rfl, rfl, rfl⟩
    | _ => simp [Instr.writes] at kept
  | scf | ccf => exact .next (.putFlags .refl (.of_butSzp whole (.inr rfl) (.inl rfl) ⟨rfl, rfl, rfl⟩))
  | addHlRp p =>
    exact .next (.putFlags_setHl .refl (add16 s.regs.f s.hl (s.pair p)).1
      (.of_butSzp (List.subset_append_right Rp.hl.cells _) (.inl rfl) (.inr rfl) ⟨rfl, rfl, rfl⟩)
      (List.subset_append_left _ _))
  | adcHlRp | sbcHlRp =>
    exact .next (.putFlags_setHl .refl _ (.of_all (List.subset_append_right Rp.hl.cells _))
      (List.subset_append_left _ _))
  | addIdxRp i p =>
    exact .next (.setIdx (.putFlags .refl (f := (add16 s.regs.f (s.idx i) (s.pairIdx i p)).2)
      (.of_butSzp rest (.inl rfl) (.inr rfl) ⟨rfl, rfl, rfl⟩)) _ _ (.head _))
  -- Rotates, shifts and bits.
  | rlcR8 o | rrcR8 o | rlR8 o | rrR8 o | slaR8 o | sraR8 o | srlR8 o =>
    exact .next (.rotateOpnd _ o (List.subset_append_left _ _) (List.subset_append_right _ _))
  | sllR8 o => exact .undocumented (.rotateOpnd _ o (List.subset_append_left _ _) (List.subset_append_right _ _))
  | rlcIdxMem | rrcIdxMem | rlIdxMem | rrIdxMem | slaIdxMem | sraIdxMem | srlIdxMem =>
    exact .next (.rotateMem _ _ whole)
  | sllIdxMem => exact .undocumented (.rotateMem _ _ whole)
  | rlcIdxCopy | rrcIdxCopy | rlIdxCopy | rrIdxCopy | slaIdxCopy | sraIdxCopy | sllIdxCopy | srlIdxCopy =>
    exact .undocumented (.setReg (.rotateMem _ _ rest) _ _ (.head _))
  | bitR8 b o =>
    cases o with
    | reg r => exact .next (.testBit .refl b _ _ rfl rfl whole)
    | hlMem => exact .next (.testBit (.memRead .refl _) b _ _ rfl (by simp) whole)
  | bitIdxMem b => exact .next (.testBit (.memRead .refl _) b _ _ rfl (by simp) whole)
  | bitIdxDup b => exact .undocumented (.testBit (.memRead .refl _) b _ _ rfl (by simp) whole)
  | resR8 _ o | setR8 _ o => exact .next (.writeOpnd (.readOpnd .refl o) o _ whole)
  | resIdxCopy | setIdxCopy => exact .undocumented (.setReg (.changeMem _ _) _ _ (.head _))
  | rrd | rld => exact .next (.rotateDigit _ _ (.head _) rest)
  -- Ports.
  | inRC => exact .next (.setReg (.inC rest) _ _ (.head _))
  | inFC => exact .undocumented (.inC whole)
  -- The block instructions.
  | ldi | ldd => exact .next (.ldStep _ _ whole nofun)
  | ldir | lddr => exact .next (.ldStep _ _ (by decide) fun _ => by decide)
  | cpi | cpd => exact .next (.cpStep _ _ whole nofun)
  | cpir | cpdr => exact .next (.cpStep _ _ (by decide) fun _ => by decide)
  | ini | ind => exact .next (.inStep _ _ _ whole nofun)
  | inir | indr => exact .next (.inStep _ _ _ (by decide) fun _ => by decide)
  | outi | outd => exact .next (.outStep _ _ whole nofun)
  | otir | otdr => exact .next (.outStep _ _ (by decide) fun _ => by decide)
  -- The system instructions.
  | halt =>
    refine .next fun cell kept => ?_
    cases cell with
    | pc | halted => simp [Instr.writes] at kept
    | _ => rfl
  | di | ei =>
    refine .next fun cell kept => ?_
    cases cell with
    | iff1 | iff2 => simp [Instr.writes] at kept
    | _ => rfl
  | im0 | im1 | im2 => exact .next (.setIm .refl _ (.head _))
  | im0Dup | im1Dup | im2Dup | im01 => exact .undocumented (.setIm .refl _ (.head _))
  | ldIA =>
    refine .next fun cell kept => ?_
    cases cell with
    | i => simp [Instr.writes] at kept
    | _ => rfl
  | ldRA =>
    refine .next fun cell kept => ?_
    cases cell with
    | r => simp [Instr.writes] at kept
    | _ => rfl
  | ldAI | ldAR => exact .next (.putFlags_setA .refl _ (.of_butC rest rfl rfl rfl) (.head _))

/-- Settles O11: the operations an instruction's meaning is made of name only cells `Instr.writes` lists. -/
theorem cellsAnInstructionDoesNotWriteAreKept : Obligations.CellsAnInstructionDoesNotWriteAreKept :=
  fun i s => exec_frames i s

end Sys2Proof.Machine
end

section
/-!
PROOFS. What an instruction does not read (10_state.md rules R17, R26; 20_memory.md rule R51): the alternate bank, R and
the two lines. A veil puts other contents in such cells; an instruction that does not read them does the same under the
veil, and leaves what it would have left under a veil of the same cells. So what the fetch counted in R is what a step
leaves in it (10_state.md rule R26).
-/

namespace Sys2Proof.Machine

open Sys2Proof

/-! ### Veils -/

/-- Other contents for the alternate bank, R and the two lines; where there are none, the cell is left as it is. -/
structure Veil where
  alt : Option Bank
  r : Option Byte
  nmi : Option Bool
  line : Option Bool

def State.veil (v : Veil) (s : State) : State :=
  { s with
    alt := v.alt.getD s.alt
    r := v.r.getD s.r
    nmiLatch := v.nmi.getD s.nmiLatch
    intLine := v.line.getD s.intLine }

/-- The veil over what an answer of the environment leaves: its host calls act on the veiled lines (R51). -/
def Veil.after (answer : Config.Answer) (v : Veil) : Veil :=
  { v with nmi := v.nmi.map (· || answer.nmi), line := v.line.map answer.line.getD }

/-- The veil over what a memory access leaves. -/
def Veil.access (s : State) (a : Word) (request : Config.BusRequest) (v : Veil) : Veil :=
  if s.isDevice a then v.after (s.answerTo request) else v

/-- The same cells are veiled, the bank and R with the same contents. -/
structure Veil.Like (v v' : Veil) : Prop where
  alt : v'.alt = v.alt
  r : v'.r = v.r
  nmi : v'.nmi.isSome = v.nmi.isSome
  line : v'.line.isSome = v.line.isSome

section
variable {v v' : Veil}

theorem Veil.Like.refl : v.Like v := ⟨rfl, rfl, rfl, rfl⟩

theorem Veil.Like.after (h : v.Like v') {answer : Config.Answer} : v.Like (v'.after answer) :=
  ⟨h.alt, h.r, Option.isSome_map.trans h.nmi, Option.isSome_map.trans h.line⟩

theorem Veil.Like.access (h : v.Like v') {s : State} {a : Word} {request : Config.BusRequest} :
    v.Like (v'.access s a request) := by
  unfold Veil.access
  split
  · exact h.after
  · exact h

end

/-! ### The operations under a veil -/

section
variable (s : State) (v : Veil)

@[simp] theorem State.veil_seen :
    (s.veil v).regs = s.regs ∧ (s.veil v).ix = s.ix ∧ (s.veil v).iy = s.iy ∧ (s.veil v).sp = s.sp ∧
    (s.veil v).pc = s.pc ∧ (s.veil v).bc = s.bc ∧ (s.veil v).de = s.de ∧ (s.veil v).hl = s.hl :=
  ⟨rfl, rfl, rfl, rfl, rfl, rfl, rfl, rfl⟩

@[simp] theorem State.veil_setSp (x : Word) : (s.veil v).setSp x = (s.setSp x).veil v := rfl

@[simp] theorem State.veil_setReg (r : Reg8) (x : Byte) : (s.veil v).setReg r x = (s.setReg r x).veil v := rfl

@[simp] theorem State.veil_putFlags (always undefined f : Flags) :
    (s.veil v).putFlags always undefined f = (s.putFlags always undefined f).veil v := rfl

@[simp] theorem State.veil_setBc (x : Word) : (s.veil v).setBc x = (s.setBc x).veil v := rfl

@[simp] theorem State.veil_setDe (x : Word) : (s.veil v).setDe x = (s.setDe x).veil v := rfl

@[simp] theorem State.veil_setHl (x : Word) : (s.veil v).setHl x = (s.setHl x).veil v := rfl

@[simp] theorem State.veil_setPair (p : Rp) (x : Word) : (s.veil v).setPair p x = (s.setPair p x).veil v := by
  cases p <;> rfl

@[simp] theorem State.veil_setPair2 (p : Rp2) (x : Word) : (s.veil v).setPair2 p x = (s.setPair2 p x).veil v := by
  cases p <;> rfl

@[simp] theorem State.veil_setIdx (i : Idx) (x : Word) : (s.veil v).setIdx i x = (s.setIdx i x).veil v := by
  cases i <;> rfl

@[simp] theorem State.veil_setHalf (i : Idx) (h : Half) (x : Byte) :
    (s.veil v).setHalf i h x = (s.setHalf i h x).veil v := by
  cases h <;> exact s.veil_setIdx v i _

@[simp] theorem State.veil_setRegX (i : Idx) (y : RegX) (x : Byte) :
    (s.veil v).setRegX i y x = (s.setRegX i y x).veil v := by
  cases y
  case idxH => exact s.veil_setHalf v i .hi x
  case idxL => exact s.veil_setHalf v i .lo x
  all_goals rfl

@[simp] theorem State.veil_repeatIf (again : Bool) : (s.veil v).repeatIf again = (s.repeatIf again).veil v := by
  cases again <;> rfl

theorem State.veil_answered (answer : Config.Answer) (event : Config.BusEvent) :
    (s.veil v).answered answer event = (s.answered answer event).veil (v.after answer) := by
  obtain ⟨alt, r, nmi, line⟩ := v
  cases nmi <;> cases line <;> rfl

@[simp] theorem State.veil_memRead (a : Word) :
    (s.veil v).memRead a = ((s.memRead a).1, (s.memRead a).2.veil (v.access s a (.memRead a))) := by
  have same : (s.veil v).isDevice a = s.isDevice a := State.isDevice_congr rfl a
  unfold State.memRead Veil.access
  rw [same]
  split
  · exact congrArg (Prod.mk _) (s.veil_answered v _ _)
  · rfl

@[simp] theorem State.veil_memWrite (a : Word) (x : Byte) :
    (s.veil v).memWrite a x = (s.memWrite a x).veil (v.access s a (.memWrite a x)) := by
  have same : (s.veil v).isDevice a = s.isDevice a := State.isDevice_congr rfl a
  unfold State.memWrite Veil.access
  rw [same]
  split
  · exact s.veil_answered v _ _
  · rfl

@[simp] theorem State.veil_ioRead (port : Word) :
    (s.veil v).ioRead port = ((s.ioRead port).1, (s.ioRead port).2.veil (v.after (s.answerTo (.ioRead port)))) :=
  congrArg (Prod.mk _) (s.veil_answered v _ _)

@[simp] theorem State.veil_ioWrite (port : Word) (x : Byte) :
    (s.veil v).ioWrite port x = (s.ioWrite port x).veil (v.after (s.answerTo (.ioWrite port x))) :=
  s.veil_answered v _ _

end

/-! ### Operations that see through no veil -/

/-- Under a veil the operation does the same, and leaves a veil of the same cells. -/
def Blind (f : State → State) : Prop := ∀ s v, ∃ v' : Veil, v.Like v' ∧ f (s.veil v) = (f s).veil v'

/-- The same of one that also answers a value. -/
def BlindRead {α : Type} (f : State → α × State) : Prop :=
  ∀ s v, ∃ v' : Veil, v.Like v' ∧ f (s.veil v) = ((f s).1, (f s).2.veil v')

/-- An operation on registers that are not veiled leaves the same veil. -/
theorem Blind.of_registers {f : State → State} (same : ∀ s v, f (s.veil v) = (f s).veil v) : Blind f :=
  fun s v => ⟨v, .refl, same s v⟩

theorem Blind.ite {c : State → Prop} [∀ s, Decidable (c s)] {f g : State → State}
    (unveiled : ∀ s v, c (s.veil v) ↔ c s) (hf : Blind f) (hg : Blind g) :
    Blind fun s => if c s then f s else g s := by
  intro s v
  by_cases h : c s
  · simpa only [h, unveiled, if_true] using hf s v
  · simpa only [h, unveiled, if_false] using hg s v

section
variable (s : State) (v : Veil)

theorem State.veil_memRead16 (a : Word) :
    ∃ v', v.Like v' ∧ (s.veil v).memRead16 a = ((s.memRead16 a).1, (s.memRead16 a).2.veil v') := by
  simp only [State.memRead16, State.veil_memRead]
  exact ⟨_, .access (.access .refl), rfl⟩

theorem State.veil_memWrite16 (a x : Word) :
    ∃ v', v.Like v' ∧ (s.veil v).memWrite16 a x = (s.memWrite16 a x).veil v' := by
  simp only [State.memWrite16, State.veil_memWrite]
  exact ⟨_, .access (.access .refl), rfl⟩

theorem State.veil_readOpnd (o : Opnd8) :
    ∃ v', v.Like v' ∧ (s.veil v).readOpnd o = ((s.readOpnd o).1, (s.readOpnd o).2.veil v') := by
  cases o with
  | reg => exact ⟨v, .refl, rfl⟩
  | hlMem => exact ⟨_, .access .refl, s.veil_memRead v s.hl⟩

end

section
variable (a x : Word)

theorem blind_push16 : Blind (State.push16 x) := by
  intro s v
  simp only [State.push16, State.veil_seen, State.veil_setSp, State.veil_memWrite]
  exact ⟨_, .access (.access .refl), rfl⟩

theorem blind_pop16 : BlindRead State.pop16 := by
  intro s v
  simp only [State.pop16, State.veil_seen, State.veil_setSp, State.veil_memRead]
  exact ⟨_, .access (.access .refl), rfl⟩

theorem blind_call : Blind (State.call x) := by
  intro s v
  obtain ⟨v', like, pushed⟩ := blind_push16 s.pc s v
  exact ⟨v', like, congrArg (State.setPc x) pushed⟩

theorem blind_popPc : Blind State.popPc := by
  intro s v
  obtain ⟨v', like, popped⟩ := blind_pop16 s v
  exact ⟨v', like, by rw [State.popPc, popped]; rfl⟩

theorem blind_returnFromInterrupt : Blind State.returnFromInterrupt := by
  intro s v
  obtain ⟨v', like, popped⟩ := blind_pop16 s v
  exact ⟨v', like, by rw [State.returnFromInterrupt, popped]; rfl⟩

theorem blind_exchangeTop : BlindRead (State.exchangeTop x) := by
  intro s v
  obtain ⟨v', like, read⟩ := s.veil_memRead16 v s.sp
  simp only [State.exchangeTop, State.veil_seen, read, State.veil_memWrite]
  exact ⟨_, .access (.access like), rfl⟩

theorem blind_modifyMem (change : Flags → Byte → Byte × Flags) : Blind (State.modifyMem change a) := by
  intro s v
  simp only [State.modifyMem, State.putXY, State.veil_seen, State.veil_memRead, State.veil_memWrite]
  exact ⟨_, .access (.access .refl), rfl⟩

theorem blind_modifyOpnd (change : Flags → Byte → Byte × Flags) (o : Opnd8) :
    Blind (State.modifyOpnd change o) := by
  cases o with
  | reg => exact .of_registers fun _ _ => rfl
  | hlMem => exact fun s v => blind_modifyMem s.hl change s v

theorem blind_rotateOpnd (kind : Rotation) (o : Opnd8) : Blind (State.rotateOpnd kind o) := by
  rw [show State.rotateOpnd kind o = _ from funext fun s => State.rotateOpnd_eq_modifyOpnd kind o s]
  exact blind_modifyOpnd _ o

theorem blind_changeOpnd (change : Byte → Byte) (o : Opnd8) : Blind (State.changeOpnd change o) := by
  cases o with
  | reg => exact .of_registers fun _ _ => rfl
  | hlMem =>
    intro s v
    simp only [State.changeOpnd, State.readOpnd, State.writeOpnd, State.veil_seen, State.veil_memRead,
      State.veil_memWrite]
    exact ⟨_, .access (.access .refl), rfl⟩

theorem blind_rotateMem (kind : Rotation) : BlindRead (State.rotateMem kind a) := by
  intro s v
  simp only [State.rotateMem, State.putXY, State.veil_seen, State.veil_memRead, State.veil_memWrite]
  exact ⟨_, .access (.access .refl), rfl⟩

theorem blind_changeMem (change : Byte → Byte) : BlindRead (State.changeMem change a) := by
  intro s v
  simp only [State.changeMem, State.veil_memRead, State.veil_memWrite]
  exact ⟨_, .access (.access .refl), rfl⟩

theorem blind_testBitIdx (b : Fin 8) (i : Idx) (d : Byte) : Blind (State.testBitIdx b i d) := by
  intro s v
  simp only [State.testBitIdx, State.veil_memRead]
  exact ⟨_, .access .refl, rfl⟩

theorem blind_rotateDigit (mem acc : Byte → Byte → Byte) : Blind (State.rotateDigit mem acc) := by
  intro s v
  simp only [State.rotateDigit, State.putXY, State.veil_seen, State.veil_memRead, State.veil_memWrite]
  exact ⟨_, .access (.access .refl), rfl⟩

theorem blind_inC : BlindRead State.inC := fun s v =>
  ⟨_, .after .refl, by simp only [State.inC, State.putXY, State.veil_seen, State.veil_ioRead]; rfl⟩

variable (delta : Word) (deltaC : Byte) (repeats : Bool)

theorem blind_ldStep : Blind (State.ldStep delta repeats) := by
  intro s v
  simp only [State.ldStep, State.veil_seen, State.veil_memRead, State.veil_memWrite, State.veil_setHl, State.veil_setDe,
    State.veil_setBc, State.veil_putFlags, State.veil_repeatIf]
  exact ⟨_, .access (.access .refl), rfl⟩

theorem blind_cpStep : Blind (State.cpStep delta repeats) := by
  intro s v
  simp only [State.cpStep, State.veil_seen, State.veil_memRead, State.veil_setHl, State.veil_setBc, State.veil_putFlags,
    State.veil_repeatIf]
  exact ⟨_, .access .refl, rfl⟩

theorem blind_inStep : Blind (State.inStep delta deltaC repeats) := by
  intro s v
  simp only [State.inStep, State.ioBlockEnd, State.veil_seen, State.veil_ioRead, State.veil_memWrite, State.veil_setReg,
    State.veil_setHl, State.veil_putFlags, State.veil_repeatIf]
  exact ⟨_, .access (.after .refl), rfl⟩

theorem blind_outStep : Blind (State.outStep delta repeats) := by
  intro s v
  simp only [State.outStep, State.ioBlockEnd, State.veil_seen, State.veil_memRead, State.veil_setReg,
    State.veil_ioWrite, State.veil_setHl, State.veil_putFlags, State.veil_repeatIf]
  exact ⟨_, .after (.access .refl), rfl⟩

end

/-! ### Every instruction -/

/-- The instruction takes, or is refused in place of, an effect that sees through no veil. -/
def HasBlindEffect (i : Instr) : Prop :=
  ∃ f : State → State,
    (∀ s, exec i s = if i.undocumented then s.undocumented i (f s) else .next (f s)) ∧ Blind f

theorem exec_blind (i : Instr) (bank : i ≠ .exAfAf ∧ i ≠ .exx) (refresh : i ≠ .ldAR ∧ i ≠ .ldRA) :
    HasBlindEffect i := by
  cases i with
  -- Registers alone.
  | exAfAf | exx => simp at bank
  | ldAR | ldRA => simp at refresh
  | nop | edUndefined | ignoredPrefix | exDeHl | jr | jpHl | jpNn | jpIdx | ldRN | ldRR | ldSpHl | ldSpIdx
  | addHlRp | adcHlRp | sbcHlRp | rlca | rrca | rla | rra | daa | cpl | scf | ccf | neg | negDup | halt | di
  | ei | im0 | im1 | im2 | im0Dup | im1Dup | im2Dup | im01 | ldIA | ldAI | addAN | adcAN | subN | sbcAN
  | andN | xorN | orN | cpN | addAHalf | adcAHalf | subHalf | sbcAHalf | andHalf | xorHalf | orHalf | cpHalf =>
    exact ⟨_, fun _ => rfl, .of_registers fun _ _ => rfl⟩
  | jrCc | jpCcNn | djnz =>
    exact ⟨_, fun _ => rfl, .ite (fun _ _ => .rfl) (.of_registers fun _ _ => rfl) (.of_registers fun _ _ => rfl)⟩
  | ldRpNn | incRp | decRp => exact ⟨_, fun _ => rfl, .of_registers fun s v => s.veil_setPair v _ _⟩
  | ldIdxNn | incIdx | decIdx => exact ⟨_, fun _ => rfl, .of_registers fun s v => s.veil_setIdx v _ _⟩
  | addIdxRp i p =>
    exact ⟨_, fun _ => rfl,
      .of_registers fun s v => (s.putXY (add16 s.regs.f (s.idx i) (s.pairIdx i p)).2).veil_setIdx v i _⟩
  | ldXX => exact ⟨_, fun _ => rfl, .of_registers fun s v => s.veil_setRegX v _ _ _⟩
  | ldHalfN => exact ⟨_, fun _ => rfl, .of_registers fun s v => s.veil_setHalf v _ _ _⟩
  | incHalf i h | decHalf i h =>
    exact ⟨_, fun _ => rfl, .of_registers fun s v => congrArg (State.putXY _) (s.veil_setHalf v i h _)⟩
  -- Reads.
  | ldRHlMem | ldRIdxMem | ldARpMem | ldANnMem | addAIdxMem | adcAIdxMem | subIdxMem | sbcAIdxMem | andIdxMem
  | xorIdxMem | orIdxMem | cpIdxMem =>
    refine ⟨_, fun _ => rfl, fun s v => ?_⟩
    simp only [State.veil_memRead]
    exact ⟨_, .access .refl, rfl⟩
  | bitIdxMem | bitIdxDup => exact ⟨_, fun _ => rfl, blind_testBitIdx _ _ _⟩
  | addAR8 o | adcAR8 o | subR8 o | sbcAR8 o | andR8 o | xorR8 o | orR8 o | cpR8 o =>
    refine ⟨_, fun _ => rfl, fun s v => ?_⟩
    obtain ⟨v', like, read⟩ := s.veil_readOpnd v o
    exact ⟨v', like, by rw [read]; rfl⟩
  | bitR8 b o =>
    cases o with
    | reg => exact ⟨_, fun _ => rfl, .of_registers fun _ _ => rfl⟩
    | hlMem =>
      refine ⟨_, fun _ => rfl, fun s v => ?_⟩
      simp only [State.readOpnd, State.veil_memRead]
      exact ⟨_, .access .refl, rfl⟩
  | cpi | cpd | cpir | cpdr => exact ⟨_, fun _ => rfl, blind_cpStep _ _⟩
  | ldRpNnMem p nn | ldHlNnMem nn | ldHlNnMemEd nn | ldIdxNnMem i nn =>
    refine ⟨_, fun _ => rfl, fun s v => ?_⟩
    obtain ⟨v', like, read⟩ := s.veil_memRead16 v nn
    simp only [State.loadPair, read, State.veil_setPair, State.veil_setIdx]
    exact ⟨v', like, rfl⟩
  | popRp2 | popIdx =>
    refine ⟨_, fun _ => rfl, fun s v => ?_⟩
    obtain ⟨v', like, read⟩ := blind_pop16 s v
    simp only [read, State.veil_setPair2, State.veil_setIdx]
    exact ⟨v', like, rfl⟩
  | ret => exact ⟨_, fun _ => rfl, blind_popPc⟩
  | retCc => exact ⟨_, fun _ => rfl, .ite (fun _ _ => .rfl) blind_popPc (.of_registers fun _ _ => rfl)⟩
  | retn | retnDup | reti => exact ⟨_, fun _ => rfl, blind_returnFromInterrupt⟩
  -- Writes.
  | ldRpMemA | ldNnMemA | ldHlMemN | ldHlMemR | ldIdxMemN | ldIdxMemR =>
    exact ⟨_, fun _ => rfl, fun s v => ⟨_, .access .refl, s.veil_memWrite v _ _⟩⟩
  | ldNnMemHl | ldNnMemHlEd | ldNnMemRp | ldNnMemIdx =>
    exact ⟨_, fun _ => rfl, fun s v => s.veil_memWrite16 v _ _⟩
  | pushRp2 | pushIdx => exact ⟨_, fun _ => rfl, fun s v => blind_push16 _ s v⟩
  | callNn | rst => exact ⟨_, fun _ => rfl, blind_call _⟩
  | callCcNn => exact ⟨_, fun _ => rfl, .ite (fun _ _ => .rfl) (blind_call _) (.of_registers fun _ _ => rfl)⟩
  -- A read, then a write.
  | incR8 | decR8 => exact ⟨_, fun _ => rfl, blind_modifyOpnd _ _⟩
  | incIdxMem | decIdxMem => exact ⟨_, fun _ => rfl, fun s v => blind_modifyMem _ _ s v⟩
  | rlcR8 | rrcR8 | rlR8 | rrR8 | slaR8 | sraR8 | sllR8 | srlR8 => exact ⟨_, fun _ => rfl, blind_rotateOpnd _ _⟩
  | resR8 | setR8 => exact ⟨_, fun _ => rfl, blind_changeOpnd _ _⟩
  | rlcIdxMem i d | rrcIdxMem i d | rlIdxMem i d | rrIdxMem i d | slaIdxMem i d | sraIdxMem i d | sllIdxMem i d
  | srlIdxMem i d =>
    refine ⟨_, fun _ => rfl, fun s v => ?_⟩
    obtain ⟨v', like, rotated⟩ := blind_rotateMem (s.indexed i d) _ s v
    exact ⟨v', like, congrArg Prod.snd rotated⟩
  | rlcIdxCopy i d z | rrcIdxCopy i d z | rlIdxCopy i d z | rrIdxCopy i d z | slaIdxCopy i d z | sraIdxCopy i d z
  | sllIdxCopy i d z | srlIdxCopy i d z =>
    refine ⟨_, fun _ => rfl, fun s v => ?_⟩
    obtain ⟨v', like, rotated⟩ := blind_rotateMem (s.indexed i d) _ s v
    exact ⟨v', like, congrArg (fun r : Byte × State => r.2.setReg z r.1) rotated⟩
  | resIdxMem b i d | setIdxMem b i d =>
    refine ⟨_, fun _ => rfl, fun s v => ?_⟩
    obtain ⟨v', like, changed⟩ := blind_changeMem (s.indexed i d) _ s v
    exact ⟨v', like, congrArg Prod.snd changed⟩
  | resIdxCopy b i d z | setIdxCopy b i d z =>
    refine ⟨_, fun _ => rfl, fun s v => ?_⟩
    obtain ⟨v', like, changed⟩ := blind_changeMem (s.indexed i d) _ s v
    exact ⟨v', like, congrArg (fun r : Byte × State => r.2.setReg z r.1) changed⟩
  | rrd | rld => exact ⟨_, fun _ => rfl, blind_rotateDigit _ _⟩
  | exSpHl =>
    refine ⟨_, fun _ => rfl, fun s v => ?_⟩
    obtain ⟨v', like, exchanged⟩ := blind_exchangeTop s.hl s v
    exact ⟨v', like, congrArg (fun r : Word × State => r.2.setHl r.1) exchanged⟩
  | exSpIdx i =>
    refine ⟨_, fun _ => rfl, fun s v => ?_⟩
    obtain ⟨v', like, exchanged⟩ := blind_exchangeTop (s.idx i) s v
    have set := congrArg (fun r : Word × State => r.2.setIdx i r.1) exchanged
    exact ⟨v', like, set.trans (State.veil_setIdx _ v' i _)⟩
  | ldi | ldd | ldir | lddr => exact ⟨_, fun _ => rfl, blind_ldStep _ _⟩
  -- Ports.
  | inAN =>
    exact ⟨_, fun _ => rfl, fun s v =>
      ⟨_, .after .refl, congrArg (fun r : Byte × State => r.2.setA r.1) (s.veil_ioRead v _)⟩⟩
  | inRC y =>
    refine ⟨_, fun _ => rfl, fun s v => ?_⟩
    obtain ⟨v', like, read⟩ := blind_inC s v
    exact ⟨v', like, congrArg (fun r : Byte × State => r.2.setReg y r.1) read⟩
  | inFC =>
    refine ⟨_, fun _ => rfl, fun s v => ?_⟩
    obtain ⟨v', like, read⟩ := blind_inC s v
    exact ⟨v', like, congrArg Prod.snd read⟩
  | outNA | outCR | outC0 => exact ⟨_, fun _ => rfl, fun s v => ⟨_, .after .refl, s.veil_ioWrite v _ _⟩⟩
  | ini | ind | inir | indr => exact ⟨_, fun _ => rfl, blind_inStep _ _ _⟩
  | outi | outd | otir | otdr => exact ⟨_, fun _ => rfl, blind_outStep _ _⟩

/-! ### What an instruction does under a veil -/

theorem HasBlindEffect.exec_veil {i : Instr} (blind : HasBlindEffect i) {s t : State} (v : Veil)
    (next : exec i s = .next t) : ∃ v', v.Like v' ∧ exec i (s.veil v) = .next (t.veil v') := by
  obtain ⟨f, effect, blind⟩ := blind
  obtain ⟨v', like, same⟩ := blind s v
  refine ⟨v', like, ?_⟩
  rw [effect] at next ⊢
  split at next
  · obtain ⟨silicon, rfl⟩ := State.undocumented_next next
    rw [same, State.undocumented_silicon (s := s.veil v) i _ silicon, ite_self]
  · next listed =>
    cases next
    rw [if_neg listed, same]

/-- The two exchanges are the only instructions to use the alternate bank, and `LD A,R` and `LD R,A` the only ones to
use R; none reads the lines. -/
theorem exec_veil {i : Instr} {s t : State} {v : Veil} (bank : v.alt = none ∨ i ≠ .exAfAf ∧ i ≠ .exx)
    (refresh : v.r = none ∨ i ≠ .ldAR ∧ i ≠ .ldRA) (next : exec i s = .next t) :
    ∃ v', v.Like v' ∧ exec i (s.veil v) = .next (t.veil v') := by
  by_cases special : (i ≠ .exAfAf ∧ i ≠ .exx) ∧ i ≠ .ldAR ∧ i ≠ .ldRA
  · exact (exec_blind i special.1 special.2).exec_veil v next
  · obtain ⟨alt, r, nmi, line⟩ := v
    simp only [not_and_or, not_not] at special
    rcases special with (rfl | rfl) | rfl | rfl
    case inl.inl | inl.inr =>
      obtain rfl : alt = none := bank.resolve_right (by simp)
      cases next
      exact ⟨_, .refl, rfl⟩
    all_goals
      obtain rfl : r = none := refresh.resolve_right (by simp)
      cases next
      exact ⟨_, .refl, rfl⟩

/-- Where the lines are not veiled, the veil after is the one before. -/
theorem Veil.Like.eq {v v' : Veil} (like : v.Like v') (nmi : v.nmi = none) (line : v.line = none) : v' = v := by
  obtain ⟨alt, r, nmi', line'⟩ := like
  rw [nmi, Option.isSome_none, Option.isSome_eq_false_iff, Option.isNone_iff_eq_none] at nmi'
  rw [line, Option.isSome_none, Option.isSome_eq_false_iff, Option.isNone_iff_eq_none] at line'
  cases v'
  cases v
  simp_all

/-- Settles O14: the bank is veiled with the other contents, and with its own to see that it is kept. -/
theorem onlyExchangesUseTheAlternateBank : Obligations.OnlyExchangesUseTheAlternateBank := by
  intro i s t g notExAfAf notExx next
  have veiled (bank : Bank) : exec i { s with alt := bank } = .next { t with alt := bank } := by
    obtain ⟨v', like, same⟩ :=
      exec_veil (v := ⟨some bank, none, none, none⟩) (.inr ⟨notExAfAf, notExx⟩) (.inl rfl) next
    rwa [like.eq rfl rfl] at same
  have own : Host.Outcome.next t = .next { t with alt := s.alt } := next.symm.trans (veiled s.alt)
  have same := Host.Outcome.next.inj own
  exact ⟨(congrArg State.alt same :), veiled g⟩

/-- Settles O15, in the same way. -/
theorem onlyLdARReadsTheRefreshRegister : Obligations.OnlyLdARReadsTheRefreshRegister := by
  intro i s t x notLdAR notLdRA next
  have veiled (r : Byte) : exec i { s with r := r } = .next { t with r := r } := by
    obtain ⟨v', like, same⟩ :=
      exec_veil (v := ⟨none, some r, none, none⟩) (.inl rfl) (.inr ⟨notLdAR, notLdRA⟩) next
    rwa [like.eq rfl rfl] at same
  have own : Host.Outcome.next t = .next { t with r := s.r } := next.symm.trans (veiled s.r)
  have same := Host.Outcome.next.inj own
  exact ⟨(congrArg State.r same :), veiled x⟩

/-- Settles O16: the veil of the two lines changes as the answers of the environment change them. -/
theorem instructionsDoNotReadTheLines : Obligations.InstructionsDoNotReadTheLines := by
  intro i s t nmi line next
  obtain ⟨⟨alt, r, nmi', line'⟩, ⟨rfl, rfl, hasNmi, hasLine⟩, same⟩ :=
    exec_veil (v := ⟨none, none, some nmi, some line⟩) (.inl rfl) (.inl rfl) next
  obtain ⟨nmi', rfl⟩ := Option.isSome_iff_exists.1 hasNmi
  obtain ⟨line', rfl⟩ := Option.isSome_iff_exists.1 hasLine
  exact ⟨nmi', line', same⟩

/-! ### The refresh counter -/

theorem endOfStep_next {o : Host.Outcome State Fault Refusal} {t : State} (ended : endOfStep o = .next t) :
    o = .next t := by
  unfold endOfStep at ended
  split at ended
  · split at ended
    · exact ended
    · cases ended
  · cases ended
  · cases ended

theorem State.afterFetch_r (s : State) (i : Instr) (count : s.params.rModel = .count) :
    (s.afterFetch i).r = advanceR s.r (opcodeFetches (s.byteAt s.pc) (s.byteAt (s.pc + 1))) := by
  simp only [State.afterFetch, count]

theorem exec_keeps_r {i : Instr} {s t : State} (notLdRA : i ≠ .ldRA) (next : exec i s = .next t) : t.r = s.r := by
  by_cases ldAR : i = .ldAR
  · subst ldAR
    cases next
    rfl
  · exact (onlyLdARReadsTheRefreshRegister i s t 0 ldAR notLdRA next).1

/-- Settles O21: the fetch counts R (`advanceR_spec`), and the instruction leaves it. -/
theorem refreshCounterKeepsItsTopBit : Obligations.RefreshCounterKeepsItsTopBit := by
  intro s i rest t runs plain count decoded notLdRA stepped
  rw [stepRunsTheDecodedInstruction s i rest runs plain decoded] at stepped
  have counted : t.r = advanceR s.r (opcodeFetches (s.byteAt s.pc) (s.byteAt (s.pc + 1))) :=
    (exec_keeps_r notLdRA (endOfStep_next stepped)).trans (s.nextDraw.afterFetch_r i count)
  rw [counted]
  exact (advanceR_spec _ _).symm

end Sys2Proof.Machine
end
